-- ==== Sys2Proof/Word.lean ====
section
/-! DEFINITION. Words, bytes, lanes, and the two fixed-size containers of the datapath: eight lanes
(00_scope R12) and the nine neighbours a..i of a 3x3 window (40 R113). -/

namespace Sys2Proof

/-- A host-visible register or a bus address: `REG_BITS` = `ADDR_BITS` = 32 (00 R8). -/
abbrev Word := BitVec 32

/-- A sample or a byte of memory: `SAMPLE_BITS` = 8, unsigned (00 R8). -/
abbrev Byte := BitVec 8

/-- A lane pattern: `LANE_BITS` = 16 (00 R8); its signed reading is two's complement (00 R10). -/
abbrev Lane := BitVec 16

/-- Eight like things, one per lane 0..7 (00 R12): eight bytes or eight lanes. -/
structure Oct (α : Type) where
  e0 : α
  e1 : α
  e2 : α
  e3 : α
  e4 : α
  e5 : α
  e6 : α
  e7 : α
  deriving DecidableEq, Repr

/-- Element `j`, `V[j]` of 00 R12. -/
def Oct.get {α : Type} (v : Oct α) (j : Fin 8) : α :=
  match j with
  | 0 => v.e0
  | 1 => v.e1
  | 2 => v.e2
  | 3 => v.e3
  | 4 => v.e4
  | 5 => v.e5
  | 6 => v.e6
  | 7 => v.e7

/-- The vector whose element `j` is `f j`. -/
def Oct.ofFn {α : Type} (f : Fin 8 → α) : Oct α :=
  ⟨f 0, f 1, f 2, f 3, f 4, f 5, f 6, f 7⟩

/-- The vector with every element `x`. -/
def Oct.const {α : Type} (x : α) : Oct α :=
  Oct.ofFn fun _ => x

/-- A lane-wise operation of one operand: no lane reads another lane (00 R12). -/
def Oct.map {α β : Type} (f : α → β) (v : Oct α) : Oct β :=
  Oct.ofFn fun j => f (v.get j)

/-- A lane-wise operation of two operands (00 R12). -/
def Oct.zip {α β γ : Type} (f : α → β → γ) (v : Oct α) (w : Oct β) : Oct γ :=
  Oct.ofFn fun j => f (v.get j) (w.get j)

/-- The names of the nine neighbours, row-major within the 3x3 window (40 R113). -/
inductive Nbr where
  | a | b | c | d | e | f | g | h | i
  deriving DecidableEq, Repr

/-- One thing per neighbour offset a..i (40 R113, 10 R39). -/
structure Win (α : Type) where
  a : α
  b : α
  c : α
  d : α
  e : α
  f : α
  g : α
  h : α
  i : α
  deriving DecidableEq, Repr

/-- The entry of neighbour `x`. -/
def Win.get {α : Type} (w : Win α) (x : Nbr) : α :=
  match x with
  | .a => w.a
  | .b => w.b
  | .c => w.c
  | .d => w.d
  | .e => w.e
  | .f => w.f
  | .g => w.g
  | .h => w.h
  | .i => w.i

/-- The window whose entry at `x` is `f x`. -/
def Win.ofFn {α : Type} (f : Nbr → α) : Win α :=
  ⟨f .a, f .b, f .c, f .d, f .e, f .f, f .g, f .h, f .i⟩

/-- The window with the entry of `x` replaced. -/
def Win.set {α : Type} (w : Win α) (x : Nbr) (v : α) : Win α :=
  Win.ofFn fun y => if y = x then v else w.get y

end Sys2Proof
end

