-- ==== Sys2Proof/Syntax.lean ====
section
/-! DEFINITION. The commands: one constructor per row of spec/opcode_table.json (30 R101). -/

namespace Sys2Proof

/-- The four legal commands (30 R96, R101). A command word holds no operand (30 R95): every operand is a fixed
register, so no constructor has a field. -/
inductive Instr where
  /-- DETECT.S, scalar Sobel detection (41 R130). -/
  | detectS
  /-- DETECT.V, vectorized Sobel detection (43 R189). -/
  | detectV
  /-- WIDEN, the transcoder's host test command (42 R152). -/
  | widen
  /-- NARROW, the transcoder's host test command (42 R153). -/
  | narrow
  deriving DecidableEq, Repr

/-- The assembler mnemonic of a command (30 R98). -/
def Instr.mnemonic (i : Instr) : String :=
  match i with
  | .detectS => "detect.s"
  | .detectV => "detect.v"
  | .widen => "widen"
  | .narrow => "narrow"

end Sys2Proof
end

