-- ==== Sys2Proof/WellFormed.lean ====
section
/-! DEFINITION. The fields of a command word (30_encoding R91) and when they are well formed (R91 to R93, R96). -/

namespace Sys2Proof

/-- The three fields of a command word (30 R91). -/
structure CommandFields where
  /-- Bits 3:0, the operation code (30 R92). -/
  opc : BitVec 4
  /-- Bit 4, the detector variant (30 R93). -/
  v : BitVec 1
  /-- Bits 31:5, reserved (30 R91). -/
  rsv : BitVec 27
  deriving DecidableEq, Repr

/-- OPC names an operation: 1 DETECT, 2 WIDEN or 3 NARROW; 0x0 and 0x4 to 0xF are illegal (30 R92). -/
def CommandFields.opcodeKnown (f : CommandFields) : Bool :=
  f.opc == 1#4 || f.opc == 2#4 || f.opc == 3#4

/-- V must be 0 unless OPC = DETECT (30 R91, R93). -/
def CommandFields.variantAllowed (f : CommandFields) : Bool :=
  f.v == 0#1 || f.opc == 1#4

/-- RSV must be 0 (30 R91). -/
def CommandFields.reservedClear (f : CommandFields) : Bool :=
  f.rsv == 0#27

/-- The three checks a legal command word passes (30 R96). -/
def CommandFields.wellFormed (f : CommandFields) : Bool :=
  f.reservedClear && f.opcodeKnown && f.variantAllowed

/-- The fields of each command's word (30 R92, R93, R98). -/
def Instr.fields (i : Instr) : CommandFields :=
  match i with
  | .detectS => ⟨1#4, 0#1, 0#27⟩
  | .detectV => ⟨1#4, 1#1, 0#27⟩
  | .widen => ⟨2#4, 0#1, 0#27⟩
  | .narrow => ⟨3#4, 0#1, 0#27⟩

/-- A command is well formed when its fields are; a command has no operand that could be out of range (30 R95). -/
def Instr.wellFormed (i : Instr) : Bool :=
  i.fields.wellFormed

end Sys2Proof
end

