-- ==== Sys2Proof/Decode.lean ====
section
/-! DEFINITION. The decoder, total on 32-bit words (30_encoding R94, R96), and the encoder. -/

namespace Sys2Proof

/-- Why a word is no legal command. The block reports ILLEGAL_CMD for each of them (30 R96, 60 R212); the three
names are the model's (log entry 17). -/
inductive DecodeError where
  /-- RSV is not 0 (30 R91). -/
  | reservedBitsSet (rsv : BitVec 27)
  /-- OPC is 0x0 or 0x4 to 0xF (30 R92). -/
  | unknownOpcode (opc : BitVec 4)
  /-- V = 1 with OPC = WIDEN or NARROW (30 R93). -/
  | variantNotAllowed (opc : BitVec 4)
  deriving DecidableEq, Repr

/-- What the decoder answers: a command, or the reason there is none. -/
inductive Decoded where
  | command (i : Instr)
  | illegal (e : DecodeError)
  deriving DecidableEq, Repr

/-- The fields of a command word: OPC = w[3:0], V = w[4], RSV = w[31:5] (30 R91). -/
def fieldsOf (w : Word) : CommandFields :=
  ⟨w.extractLsb' 0 4, w.extractLsb' 4 1, w.extractLsb' 5 27⟩

/-- The word with the given fields (30 R91): RSV in the high bits, then V, then OPC. -/
def wordOf (f : CommandFields) : Word :=
  f.rsv ++ (f.v ++ f.opc)

/-- The command that well-formed fields select (30 R92, R93). -/
def decodeFields (f : CommandFields) : Decoded :=
  if f.reservedClear = false then .illegal (.reservedBitsSet f.rsv)
  else if f.opcodeKnown = false then .illegal (.unknownOpcode f.opc)
  else if f.variantAllowed = false then .illegal (.variantNotAllowed f.opc)
  else if f.opc = 1#4 then (if f.v = 0#1 then .command .detectS else .command .detectV)
  else if f.opc = 2#4 then .command .widen
  else .command .narrow

/-- The decoder: every 32-bit word selects one of four commands or is illegal (30 R94). -/
def decode (w : Word) : Decoded :=
  decodeFields (fieldsOf w)

/-- The command word of a command (30 R98). -/
def encode (i : Instr) : Word :=
  wordOf i.fields

/-- One row of the opcode map (30 R101). -/
structure OpcodeRow where
  instr : Instr
  mask : Word
  pattern : Word
  deriving DecidableEq, Repr

/-- The full opcode map, one row per legal word (30 R101). -/
def opcodeMap : List OpcodeRow :=
  [⟨.detectS, 0xFFFFFFFF#32, 0x00000001#32⟩,
   ⟨.detectV, 0xFFFFFFFF#32, 0x00000011#32⟩,
   ⟨.widen, 0xFFFFFFFF#32, 0x00000002#32⟩,
   ⟨.narrow, 0xFFFFFFFF#32, 0x00000003#32⟩]

/-- A word selects a row when `(w & mask) == match` (30 R101). -/
def OpcodeRow.selects (r : OpcodeRow) (w : Word) : Bool :=
  (w &&& r.mask) == r.pattern

/-- The command a decoder answer holds. -/
def Decoded.instr? (d : Decoded) : Option Instr :=
  match d with
  | .command i => some i
  | .illegal _ => none

/-- The one word of an instruction whose bits are `w`, of which the table gives the low `nbits`: every bit above
`nbits` is 0. A command is one 32-bit word (30 R90). -/
def tableWord (nbits w : Nat) : Word :=
  BitVec.ofNat 32 (w % 2 ^ nbits)

/-- The decoder on a word numbered as spec/opcode_table.json numbers it (a command is one 32-bit word, so more
than 32 bits are no command). -/
def decodeTableWord (nbits w : Nat) : Option Instr :=
  if nbits ≤ 32 then (decode (tableWord nbits w)).instr? else none

end Sys2Proof
end

