-- ==== Sys2Proof/Machine/Arith.lean ====
section
/-! DEFINITION. The width functions of 00_scope R10 and the division and shift primitives of R11: computed on
exact integers, narrowed once. -/

namespace Sys2Proof.Machine

/-- `u8(v) = v mod 256` (00 R10). -/
def u8 (v : Int) : Byte := BitVec.ofInt 8 v

/-- `u16(v) = v mod 65536`, a lane pattern (00 R10). -/
def u16 (v : Int) : Lane := BitVec.ofInt 16 v

/-- `s16` of a lane pattern: its two's-complement reading (00 R10; log entry 19). -/
def s16 (x : Lane) : Int := x.toInt

/-- `s32(v)`, held as the 32-bit pattern whose signed reading it is (00 R10; log entry 19). -/
def s32 (v : Int) : BitVec 32 := BitVec.ofInt 32 v

/-- `tdiv(a, b)`: integer division truncating toward zero (00 R11). -/
def tdiv (a b : Int) : Int := Int.tdiv a b

/-- `asr(x, n)` = floor(x / 2^n), the arithmetic right shift (00 R11). -/
def asr (x : Int) (n : Nat) : Int := Int.fdiv x (2 ^ n)

/-- `abs(x)` of a mathematical integer (00 R11). -/
def absInt (x : Int) : Int := if x < 0 then -x else x

/-- `zext_16` of a byte (00 R10, 42 R150). -/
def zext16 (b : Byte) : Lane := b.zeroExtend 16

/-- `L[7:0]` of a lane (42 R151). -/
def lowByte (l : Lane) : Byte := l.extractLsb' 0 8

end Sys2Proof.Machine
end

