-- ==== Sys2Proof/Config.lean ====
section
/-! DEFINITION. The implementation parameters of 00_scope R8, and the constants the spec leaves open. -/

namespace Sys2Proof.Config

/-- `PLANES` (00 R8). -/
def planes : Nat := 3

/-- `LANES` (00 R8). -/
def lanes : Nat := 8

/-- `BPP_REQUIRED` (00 R8). -/
def bppRequired : Nat := 24

/-- `MIN_DIM`, for width and height (00 R8). -/
def minDim : Nat := 3

/-- `DIV_SHIFT` (00 R8): the kernel sums are divided by 2^3 = 8. -/
def divShift : Nat := 3

/-- The size of the address space: `ADDR_BITS` = 32, byte addresses 0 to 2^32-1 (00 R8, 20 R60). -/
def spaceSize : Nat := 2 ^ 32

/-- `REG_BASE` (00 R8, 20 R61), OPEN: the host-bus address of the register window. It has no value here;
every behaviour is stated in offsets from it, as 30 R99 encodes host operations (log entry 5). -/
opaque regBase : Word

/-- The free bytes of racing accesses (20 R76, "any byte value (a draw)"): `freeByte d k` is the k-th byte of
draw `d`. It has no value here, so a claim about it holds for every value (log entry 8). -/
opaque freeByte : Nat → Nat → Byte

end Sys2Proof.Config
end

