-- ==== Sys2Proof/Machine/State.lean ====
section
/-! DEFINITION. The state of the block, of the shared memory and of the host's pending operations (10_state R21),
as plain data, and the state after reset (70 R241, R242). -/

namespace Sys2Proof.Machine

/-- What the block does (10 R36): idle, running a DETECT.S or running a DETECT.V. -/
inductive Phase where
  | idle
  | runS
  | runV
  deriving DecidableEq, Repr

/-- The error causes (60 R211). -/
inductive ErrCode where
  /-- The word is not one of the four legal words (60 R212). -/
  | illegalCmd
  /-- BPP ≠ 24 at acceptance (60 R213). -/
  | badDepth
  /-- WIDTH < 3 or HEIGHT < 3 at acceptance (60 R214). -/
  | badDims
  /-- A window would extend past address 2^32-1 (60 R215). -/
  | range
  /-- The windows share a byte (60 R216). -/
  | overlap
  /-- A memory access of the run fails (60 R217). -/
  | busError
  deriving DecidableEq, Repr

/-- The stored fields of STATUS (10 R25): DONE, ERR and ERRCODE. BUSY has its one home in `phase` (10 R36), and
the reserved bits read 0, so neither is stored here (log entry 16). -/
structure Status where
  done : Bool
  err : Bool
  errCode : BitVec 4
  deriving DecidableEq, Repr

/-- The latched operands of the running DETECT command (10 R37). -/
structure Latch where
  w : Word
  h : Word
  inBase : Word
  outBase : Word
  deriving DecidableEq, Repr

/-- The sequencer position (10 R38): plane, row, first column, active lanes. "The fields are wide enough" and
"nothing wraps", so they are naturals. -/
structure SeqPos where
  p : Nat
  r : Nat
  c : Nat
  n : Nat
  deriving DecidableEq, Repr

/-- A range of byte addresses at which memory responds: base, base + 1, ..., base + size - 1. A list of them
writes down any `MemOK` (00 R8, 20 R69; log entry 4). -/
structure Region where
  base : Nat
  size : Nat
  deriving DecidableEq, Repr

/-- The width of a host access to the register window (20 R62). -/
inductive AccessWidth where
  | b8 | b16 | b32 | b64
  deriving DecidableEq, Repr

/-- One thing that reaches the block from outside, or the block's turn (log entry 1). Register accesses carry
the byte offset from REG_BASE in the 256-byte window, as 30 R99 encodes them. -/
inductive Input where
  /-- A host write to the register window (30 R99 `wreg`, 20 R62). -/
  | regWrite (width : AccessWidth) (off : BitVec 8) (v : Word)
  /-- A host read of the register window (30 R99 `rreg`, 20 R62). -/
  | regRead (width : AccessWidth) (off : BitVec 8)
  /-- A host write of one byte of `Mem` (30 R99 `wmem`). -/
  | memWrite (addr : Word) (b : Byte)
  /-- A host read of one byte of `Mem` (30 R99 `rmem`). -/
  | memRead (addr : Word)
  /-- The host polls STATUS until BUSY reads 0 (30 R100 `wait`; log entry 14). -/
  | wait
  /-- The block takes one step before the host's next operation (10 R20; log entry 1). -/
  | blockTurn
  /-- The platform's reset (70 R240); `k` writes of the unit in progress, if it has as many, are done when it
  arrives (70 R244; log entry 13). -/
  | reset (k : Nat)
  deriving DecidableEq, Repr

/-- The shared memory: address and byte pairs, addresses strictly rising, no entry equal to what an unlisted
address reads as (log entry 3). -/
abbrev Memory := List Host.Cell

/-- The machine: the block (10 R21), the platform's memory (20 R60), and what waits outside. -/
structure State where
  /-- 10 R36. -/
  phase : Phase
  /-- STATUS, 10 R25, but for BUSY. -/
  status : Status
  /-- FAULT_ADDR, 10 R26. -/
  faultAddr : Word
  /-- BPP, 10 R27. -/
  bpp : Word
  /-- WIDTH, 10 R28. -/
  width : Word
  /-- HEIGHT, 10 R29. -/
  height : Word
  /-- IN_BASE, 10 R30. -/
  inBase : Word
  /-- OUT_BASE, 10 R31. -/
  outBase : Word
  /-- LANE_B0, 10 R32. -/
  laneB0 : Word
  /-- LANE_B1, 10 R32. -/
  laneB1 : Word
  /-- LANE_W0, 10 R33. -/
  laneW0 : Word
  /-- LANE_W1, 10 R33. -/
  laneW1 : Word
  /-- LANE_W2, 10 R33. -/
  laneW2 : Word
  /-- LANE_W3, 10 R33. -/
  laneW3 : Word
  /-- The latched operands, 10 R37. -/
  lat : Latch
  /-- The sequencer position, 10 R38. -/
  seq : SeqPos
  /-- VOP[a]..VOP[i], 10 R39. -/
  vop : Win (Oct Lane)
  /-- SV, 10 R39. -/
  sv : Oct Lane
  /-- SH, 10 R39. -/
  sh : Oct Lane
  /-- VR, 10 R39. -/
  vr : Oct Lane
  /-- SSV, 10 R40. -/
  ssv : BitVec 32
  /-- SSH, 10 R40. -/
  ssh : BitVec 32
  /-- `Mem`, 20 R60, R69. -/
  mem : Memory
  /-- `MemOK`, 00 R8, 20 R69: where memory responds; no step writes it (log entry 4). -/
  memMap : List Region
  /-- The operations not served yet, oldest first (log entry 1). -/
  inputs : List Input
  /-- What the last host read returned (log entry 7). -/
  busData : Word
  /-- How many draws of free bytes were made (20 R76; log entry 8). -/
  draws : Nat
  /-- The operands of the DETECT commands accepted since the host last read BUSY = 0, newest first: their windows are
  not handed over yet, and a host access there races (20 R76, 70 R248; log entry 26). -/
  unread : List Latch
  /-- Addresses a racing host write reached in an input window: the block's reads of them are draws (20 R76; log
  entry 9). -/
  racedIn : List Nat
  /-- Addresses of output windows that hold any byte at the hand-over: those a racing host write reached, and the
  output bytes of the pixels whose neighbourhood holds a raced byte (20 R76; log entries 9 and 25). -/
  racedOut : List Nat
  deriving DecidableEq, Repr

/-- Where the model stops. No command ends in one. -/
inductive Fault where
  /-- Raised by a host access to an address of `Mem` where no memory responds: the spec gives the block's access
  its outcome (20 R70) and the host's none. Safe: the model stops where a platform may go on (log entry 10). -/
  | hostNoMemory (addr : Word)
  deriving DecidableEq, Repr

/-- What the model gives no meaning to. -/
inductive Refusal where
  /-- Raised by an arm of `exec` whose instruction has no meaning yet. Safe. -/
  | notModelled (mnemonic : String)
  /-- Raised by a host access to the register window that is not an aligned 32-bit one: "A model refuses it"
  (20 R62). Safe (log entry 11). -/
  | badRegisterAccess (width : AccessWidth) (off : BitVec 8)
  deriving DecidableEq, Repr

/-- What a meaning and a step answer. -/
abbrev Answer := Host.Outcome State Fault Refusal

/-- The block right after reset: every host-visible register 0 and the block idle (70 R241, R242), the internal
registers at 0 (log entry 6), no memory listed (log entry 3), memory everywhere (log entry 4), nothing waiting. -/
def State.reset : State where
  phase := .idle
  status := ⟨false, false, 0#4⟩
  faultAddr := 0#32
  bpp := 0#32
  width := 0#32
  height := 0#32
  inBase := 0#32
  outBase := 0#32
  laneB0 := 0#32
  laneB1 := 0#32
  laneW0 := 0#32
  laneW1 := 0#32
  laneW2 := 0#32
  laneW3 := 0#32
  lat := ⟨0#32, 0#32, 0#32, 0#32⟩
  seq := ⟨0, 0, 0, 0⟩
  vop := Win.ofFn fun _ => Oct.const 0#16
  sv := Oct.const 0#16
  sh := Oct.const 0#16
  vr := Oct.const 0#16
  ssv := 0#32
  ssh := 0#32
  mem := []
  memMap := [⟨0, 2 ^ 32⟩]
  inputs := []
  busData := 0#32
  draws := 0
  unread := []
  racedIn := []
  racedOut := []

end Sys2Proof.Machine
end

