-- ==== Sys2Proof/Machine/Flags.lean ====
section
/-! DEFINITION. STATUS: its fields, its error codes and the word the host reads (10_state R25, 60 R211). The block
has no other flag (10 R41). -/

namespace Sys2Proof.Machine

/-- The number of an error cause in ERRCODE (60 R211). -/
def ErrCode.number (e : ErrCode) : BitVec 4 :=
  match e with
  | .illegalCmd => 1#4
  | .badDepth => 2#4
  | .badDims => 3#4
  | .range => 4#4
  | .overlap => 5#4
  | .busError => 6#4

/-- STATUS with DONE = ERR = ERRCODE = 0: after reset (70 R241) and after acceptance (30 R94). -/
def statusClear : Status := ⟨false, false, 0#4⟩

/-- DONE = 1, ERR = 0, ERRCODE = 0: the word 0x00000002 (70 R254, 42 R152). -/
def statusDone : Status := ⟨true, false, 0#4⟩

/-- DONE = 1, ERR = 1, ERRCODE = the cause: the word 0x00000006 | (code << 8) (60 R219). -/
def statusError (e : ErrCode) : Status := ⟨true, true, e.number⟩

/-- BUSY: 1 exactly when phase is RUN_S or RUN_V (10 R36). -/
def busy (s : State) : Bool :=
  match s.phase with
  | .idle => false
  | .runS => true
  | .runV => true

/-- The word a host read of STATUS returns (10 R25): bits 31:12 zero, ERRCODE, bits 7:3 zero, ERR, DONE, BUSY. -/
def statusWord (s : State) : Word :=
  0#20 ++ (s.status.errCode ++ (0#5 ++
    (BitVec.ofBool s.status.err ++ (BitVec.ofBool s.status.done ++ BitVec.ofBool (busy s)))))

end Sys2Proof.Machine
end

