-- ==== Sys2Proof/Machine/Ops.lean ====
section
/-! DEFINITION. The named operations over memory (20_memory R60 to R70), the register file (10_state R23), the
acceptance and the end of a command: its first effects (30 R94), the error entry (60 R219), the end of a run
(70 R254), the races (20 R76) and reset (70 R241 to R243). -/

namespace Sys2Proof.Machine

/-! ### Memory -/

/-- What a byte nothing has written reads as. DESIGN CHOICE, unsafe (log entry 3). -/
def unlistedByte : Byte := 0#8

/-- The byte at an address: the last one written there (20 R69). -/
def Memory.read : Memory → Nat → Byte
  | [], _ => unlistedByte
  | (k, v) :: t, a => if k = a then v else Memory.read t a

/-- Writing one byte changes only that byte (20 R69). The canonical form is kept: the value an unlisted address
reads as is never listed. -/
def Memory.write : Memory → Nat → Byte → Memory
  | [], a, b => if b = unlistedByte then [] else [(a, b)]
  | (k, v) :: t, a, b =>
    if a < k then (if b = unlistedByte then (k, v) :: t else (a, b) :: (k, v) :: t)
    else if a = k then (if b = unlistedByte then t else (a, b) :: t)
    else (k, v) :: Memory.write t a b

/-- The canonical form: addresses strictly rising, no entry equal to what an unlisted address reads as. -/
def Memory.wf : Memory → Bool
  | [] => true
  | (k, v) :: t => (v != unlistedByte) && t.all (fun cell => decide (k < cell.1)) && Memory.wf t

/-- Every listed address lies in the address space (20 R60). -/
def Memory.inSpace (m : Memory) : Bool :=
  m.all fun cell => decide (cell.1 < Config.spaceSize)

/-- `MemOK(addr)` (00 R8, 20 R69): the address is in the address space and in a region that responds. -/
def memOK (s : State) (a : Int) : Bool :=
  decide (0 ≤ a) && decide (a < Config.spaceSize) &&
    s.memMap.any fun g => decide ((g.base : Int) ≤ a) && decide (a < (g.base : Int) + g.size)

/-- The first of the addresses, in order, at which memory does not respond (60 R217). -/
def firstFailing (s : State) (addrs : List Int) : Option Int :=
  addrs.find? fun a => !memOK s a

/-- The byte `MemRead(a, 1)` gives the block (20 R69): the byte of memory, or, where a race left this byte any value,
any byte, drawn anew at every read (20 R76): `k` numbers the reads of one unit. -/
def blockRead (s : State) (k : Nat) (a : Int) : Byte :=
  if a.toNat ∈ s.racedIn ∨ a.toNat ∈ s.racedOut then Config.freeByte s.draws k else Memory.read s.mem a.toNat

/-- Each unit draws its free bytes anew (20 R76; log entry 8). -/
def nextDraw (s : State) : State :=
  { s with draws := s.draws + 1 }

/-- The state with other memory contents. -/
def setMem (s : State) (m : Memory) : State :=
  { s with mem := m }

/-- One byte stored: `MemWrite(a, 1, b)` where memory responds. -/
def storeByte (s : State) (a : Nat) (b : Byte) : State :=
  setMem s (Memory.write s.mem a b)

/-- The writes of a unit in order: the first failing address ends them, those before it stand (60 R220). -/
def storeBytes (s : State) : List (Int × Byte) → State × Option Int
  | [] => (s, none)
  | (a, b) :: rest =>
    if memOK s a then storeBytes (storeByte s a.toNat b) rest else (s, some a)

/-! ### The register file -/

/-- The registers of the map (10 R23). -/
inductive Reg where
  | cmd | status | faultAddr | bpp | width | height | inBase | outBase
  | laneB0 | laneB1 | laneW0 | laneW1 | laneW2 | laneW3
  deriving DecidableEq, Repr

/-- The byte offset of a register from REG_BASE (10 R23). -/
def regOffset (r : Reg) : BitVec 8 :=
  match r with
  | .cmd => 0x00#8
  | .status => 0x04#8
  | .faultAddr => 0x08#8
  | .bpp => 0x0C#8
  | .width => 0x10#8
  | .height => 0x14#8
  | .inBase => 0x18#8
  | .outBase => 0x1C#8
  | .laneB0 => 0x20#8
  | .laneB1 => 0x24#8
  | .laneW0 => 0x28#8
  | .laneW1 => 0x2C#8
  | .laneW2 => 0x30#8
  | .laneW3 => 0x34#8

/-- The host-bus address of a register: REG_BASE plus its offset (20 R61). -/
def regBusAddr (r : Reg) : Word :=
  Config.regBase + (regOffset r).zeroExtend 32

/-- Every register of the map. -/
def allRegs : List Reg :=
  [.cmd, .status, .faultAddr, .bpp, .width, .height, .inBase, .outBase,
   .laneB0, .laneB1, .laneW0, .laneW1, .laneW2, .laneW3]

/-- The register at an offset; 0x38 to 0xFC are unmapped (10 R34). -/
def regAt (off : BitVec 8) : Option Reg :=
  allRegs.find? fun r => regOffset r == off

/-- What a read of a register returns: CMD is write-only and reads 0 (10 R23, R24). -/
def readReg (s : State) (r : Reg) : Word :=
  match r with
  | .cmd => 0#32
  | .status => statusWord s
  | .faultAddr => s.faultAddr
  | .bpp => s.bpp
  | .width => s.width
  | .height => s.height
  | .inBase => s.inBase
  | .outBase => s.outBase
  | .laneB0 => s.laneB0
  | .laneB1 => s.laneB1
  | .laneW0 => s.laneW0
  | .laneW1 => s.laneW1
  | .laneW2 => s.laneW2
  | .laneW3 => s.laneW3

/-- A write to a register that only stores: STATUS and FAULT_ADDR are read-only, writes ignored (10 R25, R26);
a write to CMD stores nothing, it issues a command (10 R24, `serveRegWrite`). -/
def writeReg (s : State) (r : Reg) (v : Word) : State :=
  match r with
  | .cmd => s
  | .status => s
  | .faultAddr => s
  | .bpp => { s with bpp := v }
  | .width => { s with width := v }
  | .height => { s with height := v }
  | .inBase => { s with inBase := v }
  | .outBase => { s with outBase := v }
  | .laneB0 => { s with laneB0 := v }
  | .laneB1 => { s with laneB1 := v }
  | .laneW0 => { s with laneW0 := v }
  | .laneW1 => { s with laneW1 := v }
  | .laneW2 => { s with laneW2 := v }
  | .laneW3 => { s with laneW3 := v }

/-! ### The life of a command -/

/-- `seq <- (p, r, c, n)` (00 R13). -/
def setSeq (s : State) (q : SeqPos) : State :=
  { s with seq := q }

/-- The operand registers VOP written (43 R177). -/
def setVop (s : State) (v : Win (Oct Lane)) : State :=
  { s with vop := v }

/-- The first effects of acceptance: STATUS and FAULT_ADDR cleared (30 R94). -/
def acceptClear (s : State) : State :=
  { s with status := statusClear, faultAddr := 0#32 }

/-- A command word reaches CMD: accepted at once when the block is idle, dropped with no effect when it is busy
(10 R24, 70 R247). `effect` is what the accepted command does after the clearing. -/
def issue (s : State) (effect : State → State) : State :=
  if busy s then s else effect (acceptClear s)

/-- The error entry, `raise Error(code, addr)` (60 R219): the command ends, the block is idle, STATUS holds the
code, FAULT_ADDR the address of a BUS_ERROR and 0 otherwise; no other register changes. -/
def raiseError (s : State) (e : ErrCode) (addr : Word) : State :=
  { s with
    phase := .idle
    status := statusError e
    faultAddr := if e = .busError then addr else 0#32 }

/-- A command done in its acceptance step: STATUS = 0x00000002, phase stays IDLE (42 R152, R153). -/
def completeAtOnce (s : State) : State :=
  { s with status := statusDone }

/-- The bytes at the listed addresses become any bytes (20 R76): the k-th of draw `d` for the k-th address. -/
def scramble (d : Nat) : Nat → List Nat → Memory → Memory
  | _, [], m => m
  | k, a :: rest, m => scramble d (k + 1) rest (Memory.write m a (Config.freeByte d k))

/-- The windows are handed over to the host, at a STATUS read that shows BUSY = 0 (70 R248, 20 R75): each raced output
byte now holds any value ("leaves that byte any value after the command", 20 R76), and no access races any more. -/
def handOver (s : State) : State :=
  match s.racedOut with
  | [] => { s with unread := [], racedIn := [] }
  | a :: rest =>
    { s with
      mem := scramble (s.draws + 1) 0 (a :: rest) s.mem
      draws := s.draws + 1
      unread := []
      racedIn := []
      racedOut := [] }

/-- A host read of STATUS (10 R25): while it shows BUSY = 1 it changes nothing, and when it shows BUSY = 0 the windows
are handed over (70 R248). -/
def pollStatus (s : State) : State :=
  { (if busy s then s else handOver s) with busData := statusWord s }

/-- `finish()`, the end of a run (70 R254): idle, STATUS = 0x00000002. -/
def finish (s : State) : State :=
  { s with
    phase := .idle
    status := statusDone }

/-- A failing access of a run: BUS_ERROR with the address (60 R217). -/
def busFailure (s : State) (a : Int) : State :=
  raiseError s .busError (BitVec.ofInt 32 a)

/-- A unit's writes, then its advance; a failing write ends the command (41 R136, 43 R181). -/
def storeThen (s : State) (stores : List (Int × Byte)) (advance : State → State) : State :=
  match storeBytes s stores with
  | (s', some a) => busFailure s' a
  | (s', none) => advance s'

/-- Reset's effect on the block: every register and the phase as after reset (70 R241, R242); `Mem` is kept
(R243), and so is what is outside the block (log entry 23): reset hands no window over (70 R248; log entry 26). -/
def resetBlock (s : State) : State :=
  { State.reset with
    mem := s.mem
    memMap := s.memMap
    inputs := s.inputs
    busData := s.busData
    draws := s.draws
    unread := s.unread
    racedIn := s.racedIn
    racedOut := s.racedOut }

end Sys2Proof.Machine
end

