-- ==== Sys2Proof/Machine/Operands.lean ====
section
/-! DEFINITION. Where operands lie: the packing of bytes and lanes in the LANE registers (10_state R32, R33), the
sample addresses of the plane buffers (40 R111, R113, R120), the two kernels and their sums (40 R112 to R114), and
the acceptance checks of a DETECT command (60 R218). -/

namespace Sys2Proof.Machine

/-! ### The LANE registers -/

/-- Byte `i` (0..3) of a register: bits 8i+7:8i (10 R32). -/
def byteOf (w : Word) (i : Nat) : Byte := w.extractLsb' (8 * i) 8

/-- Half `k` of a register: bits 15:0 or 31:16 (10 R33). -/
def halfOf (w : Word) (k : Nat) : Lane := w.extractLsb' (16 * k) 16

/-- The transcoder's byte operands B[0..7] (10 R32). -/
def laneBytes (s : State) : Oct Byte :=
  ⟨byteOf s.laneB0 0, byteOf s.laneB0 1, byteOf s.laneB0 2, byteOf s.laneB0 3,
   byteOf s.laneB1 0, byteOf s.laneB1 1, byteOf s.laneB1 2, byteOf s.laneB1 3⟩

/-- The transcoder's lanes L[0..7] (10 R33). -/
def laneHalves (s : State) : Oct Lane :=
  ⟨halfOf s.laneW0 0, halfOf s.laneW0 1, halfOf s.laneW1 0, halfOf s.laneW1 1,
   halfOf s.laneW2 0, halfOf s.laneW2 1, halfOf s.laneW3 0, halfOf s.laneW3 1⟩

/-- `{B[3], B[2], B[1], B[0]}` and `{B[7], B[6], B[5], B[4]}` written to LANE_B0 and LANE_B1 (42 R153). -/
def writeLaneBytes (s : State) (b : Oct Byte) : State :=
  { s with
    laneB0 := b.e3 ++ (b.e2 ++ (b.e1 ++ b.e0))
    laneB1 := b.e7 ++ (b.e6 ++ (b.e5 ++ b.e4)) }

/-- `{L[2k+1], L[2k]}` written to LANE_Wk (42 R152). -/
def writeLaneHalves (s : State) (l : Oct Lane) : State :=
  { s with
    laneW0 := l.e1 ++ l.e0
    laneW1 := l.e3 ++ l.e2
    laneW2 := l.e5 ++ l.e4
    laneW3 := l.e7 ++ l.e6 }

/-! ### Sample addresses -/

/-- `base + p*W*H + r*W + c`, on unbounded integers (20 R63, 40 R111). -/
def sampleAddr (base : Word) (l : Latch) (p : Nat) (r c : Int) : Int :=
  (base.toNat : Int) + p * l.w.toNat * l.h.toNat + r * l.w.toNat + c

/-- `inAddr(p, r, c)` (40 R111). -/
def inAddr (l : Latch) (p : Nat) (r c : Int) : Int := sampleAddr l.inBase l p r c

/-- `outAddr(p, r, c)` (40 R111). -/
def outAddr (l : Latch) (p : Nat) (r c : Int) : Int := sampleAddr l.outBase l p r c

/-- `3 * W * H`, the length of a plane buffer (20 R63). -/
def windowLength (l : Latch) : Nat := 3 * l.w.toNat * l.h.toNat

/-- The address lies in the input window (20 R64). -/
def inInputWindow (l : Latch) (a : Nat) : Bool :=
  decide (l.inBase.toNat ≤ a) && decide (a < l.inBase.toNat + windowLength l)

/-- The address lies in the output window (20 R65). -/
def inOutputWindow (l : Latch) (a : Nat) : Bool :=
  decide (l.outBase.toNat ≤ a) && decide (a < l.outBase.toNat + windowLength l)

/-- The row offset k of a neighbour (40 R113). -/
def rowOffset (x : Nbr) : Int :=
  match x with
  | .a => -1
  | .b => -1
  | .c => -1
  | .d => 0
  | .e => 0
  | .f => 0
  | .g => 1
  | .h => 1
  | .i => 1

/-- The column offset l of a neighbour (40 R113). -/
def colOffset (x : Nbr) : Int :=
  match x with
  | .a => -1
  | .b => 0
  | .c => 1
  | .d => -1
  | .e => 0
  | .f => 1
  | .g => -1
  | .h => 0
  | .i => 1

/-- The place of a neighbour in row-major order, 0..8 (40 R113). -/
def nbrIndex (x : Nbr) : Nat :=
  match x with
  | .a => 0
  | .b => 1
  | .c => 2
  | .d => 3
  | .e => 4
  | .f => 5
  | .g => 6
  | .h => 7
  | .i => 8

/-- The nine neighbours in row-major order (40 R113). -/
def allNbrs : List Nbr := [.a, .b, .c, .d, .e, .f, .g, .h, .i]

/-- `LW(X)` (40 R120) and the scalar unit's read address (41 R136): neighbour `x` of the unit's first pixel. -/
def nbrAddr (s : State) (x : Nbr) : Int :=
  inAddr s.lat s.seq.p (s.seq.r + rowOffset x) (s.seq.c + colOffset x)

/-! ### Races -/

/-- The output bytes of the interior pixels whose neighbourhood holds the input byte at `a` (20 R76): the pixel at
which that byte is neighbour `x`, for each `x`. -/
def touchedOutputs (l : Latch) (a : Nat) : List Nat :=
  if inInputWindow l a then
    let offset := a - l.inBase.toNat
    let plane := l.w.toNat * l.h.toNat
    let inPlane := offset % plane
    allNbrs.filterMap fun x =>
      let r : Int := (inPlane / l.w.toNat : Nat) - rowOffset x
      let c : Int := (inPlane % l.w.toNat : Nat) - colOffset x
      if 1 ≤ r ∧ r + 2 ≤ l.h.toNat ∧ 1 ≤ c ∧ c + 2 ≤ l.w.toNat then
        some (outAddr l (offset / plane) r c).toNat
      else none
  else []

/-- The bytes that hold any value because those of `raced` do, command by command, the oldest first (the list is
newest first): an output byte of one command can be an input byte of a later one. -/
def raceReach : List Latch → List Nat → List Nat
  | [], raced => raced
  | l :: older, raced =>
    let reached := raceReach older raced
    reached ++ reached.flatMap (touchedOutputs l)

/-- `new` joined to a list of raced addresses, none twice. -/
def joinRaced (new raced : List Nat) : List Nat :=
  new.filter (fun a => !raced.contains a) ++ raced

/-- A host write at the address races: it lies in an input window not handed over (20 R76, 70 R248). -/
def racesIn (s : State) (a : Nat) : Bool := s.unread.any fun l => inInputWindow l a

/-- A host access at the address races: it lies in an output window not handed over (20 R76, 70 R248). -/
def racesOut (s : State) (a : Nat) : Bool := s.unread.any fun l => inOutputWindow l a

/-- A racing host write (20 R76): a byte of an input window is stored and the block's reads of it become draws, one of
an output window is left alone; the output bytes it reaches hold any value at the hand-over. -/
def raceWrite (s : State) (a : Nat) (b : Byte) : State :=
  { (if racesIn s a then storeByte s a b else s) with
    racedIn := if racesIn s a then joinRaced [a] s.racedIn else s.racedIn
    racedOut := joinRaced ((raceReach s.unread [a]).filter (racesOut s)) s.racedOut }

/-- The windows of an accepted DETECT command race from now on (70 R248); of its output, the pixels whose neighbourhood
holds a byte that an earlier race left any value hold any value too (20 R76). -/
def openWindows (s : State) (l : Latch) : State :=
  { s with
    unread := l :: s.unread
    racedOut := joinRaced ((s.racedIn ++ s.racedOut).flatMap (touchedOutputs l)) s.racedOut }

/-! ### Kernels -/

/-- `Kv = [-1,-2,-1; 0,0,0; 1,2,1]` (40 R112). -/
def kernelV : List (List Int) := [[-1, -2, -1], [0, 0, 0], [1, 2, 1]]

/-- `Kh = [-1,0,1; -2,0,2; -1,0,1]` (40 R112). -/
def kernelH : List (List Int) := [[-1, 0, 1], [-2, 0, 2], [-1, 0, 1]]

/-- `K[k+1][l+1]` for the offsets of a neighbour (40 R112, R113). -/
def coefficient (kernel : List (List Int)) (x : Nbr) : Int :=
  (kernel.getD (rowOffset x + 1).toNat []).getD (colOffset x + 1).toNat 0

/-- `Σ K[k+1][l+1] * sample` over the nine neighbours, the first form of 40 R114. -/
def convolve (kernel : List (List Int)) (w : Win Byte) : Int :=
  (allNbrs.map fun x => coefficient kernel x * ((w.get x).toNat : Int)).sum

/-- `-sa - 2*sb - sc + sg + 2*sh + si`, the form the unit computes (40 R114, 41 R136). -/
def sumV (w : Win Byte) : Int :=
  -(w.a.toNat : Int) - 2 * w.b.toNat - w.c.toNat + w.g.toNat + 2 * w.h.toNat + w.i.toNat

/-- `-sa + sc - 2*sd + 2*sf - sg + si`, the form the unit computes (40 R114, 41 R136). -/
def sumH (w : Win Byte) : Int :=
  -(w.a.toNat : Int) + w.c.toNat - 2 * w.d.toNat + 2 * w.f.toNat - w.g.toNat + w.i.toNat

/-! ### Acceptance of a DETECT command -/

/-- `check_detect_operands()` (60 R218): the first check that fails, in the order depth, dimensions, range,
overlap, computed on unbounded integers. -/
def checkDetectOperands (s : State) : Option ErrCode :=
  let l := 3 * s.width.toNat * s.height.toNat
  if s.bpp.toNat ≠ Config.bppRequired then some .badDepth
  else if s.width.toNat < Config.minDim ∨ s.height.toNat < Config.minDim then some .badDims
  else if s.inBase.toNat + l > Config.spaceSize ∨ s.outBase.toNat + l > Config.spaceSize then some .range
  else if s.inBase.toNat < s.outBase.toNat + l ∧ s.outBase.toNat < s.inBase.toNat + l then some .overlap
  else none

/-- The operands latched at acceptance (10 R37). -/
def latched (s : State) : Latch := ⟨s.width, s.height, s.inBase, s.outBase⟩

/-- `start_detect`: the checks, the latch, the phase, and the first unit with `n` active lanes (41 R130,
43 R189). -/
def startDetect (phase : Phase) (n : Nat) (s : State) : State :=
  match checkDetectOperands s with
  | some e => raiseError s e 0#32
  | none =>
    { openWindows s (latched s) with
      lat := latched s
      phase := phase
      seq := ⟨0, 1, 1, n⟩ }

end Sys2Proof.Machine
end

