-- ==== Sys2Proof/Machine/Scalar.lean ====
section
/-! DEFINITION. scalar_sobel_reference (41_scalar_sobel_reference): the pixel function, one scalar unit, its
advance, and the command DETECT.S. -/

namespace Sys2Proof.Machine

/-- `u8(abs(tdiv(SSV, 8)) + abs(tdiv(SSH, 8)))` (41 R131): no clamp (41 R134). -/
def scalarPixel (ssv ssh : BitVec 32) : Byte :=
  u8 (absInt (tdiv ssv.toInt 8) + absInt (tdiv ssh.toInt 8))

/-- `SPX` of a neighbourhood (41 R131). -/
def spx (w : Win Byte) : Byte := scalarPixel (s32 (sumV w)) (s32 (sumH w))

/-- The addresses a scalar unit reads, row-major (41 R136). -/
def scalarReads (s : State) : List Int := allNbrs.map (nbrAddr s)

/-- The nine samples a scalar unit reads (41 R136). -/
def scalarSamples (s : State) : Win Byte :=
  Win.ofFn fun x => blockRead s (nbrIndex x) (nbrAddr s x)

/-- `SSV <- s32(...)`, `SSH <- s32(...)` (41 R136). -/
def accumulate (s : State) (w : Win Byte) : State :=
  { s with
    ssv := s32 (sumV w)
    ssh := s32 (sumH w) }

/-- The one write of a scalar unit, once the accumulators hold the sums (41 R136). -/
def scalarStores (s : State) : List (Int × Byte) :=
  [(outAddr s.lat s.seq.p s.seq.r s.seq.c, scalarPixel s.ssv s.ssh)]

/-- `scalar_advance()` (41 R137). `c < W - 2` is written `c + 2 < W`. -/
def scalarAdvance (s : State) : State :=
  if s.seq.c + 2 < s.lat.w.toNat then
    setSeq s ⟨s.seq.p, s.seq.r, s.seq.c + 1, 1⟩
  else if s.seq.r + 2 < s.lat.h.toNat then
    setSeq s ⟨s.seq.p, s.seq.r + 1, 1, 1⟩
  else if s.seq.p < 2 then
    setSeq s ⟨s.seq.p + 1, 1, 1, 1⟩
  else finish s

/-- A scalar unit up to its write: the first read that fails, or the state with the sums (41 R136). -/
def scalarLoad (s : State) : State × Option Int :=
  match firstFailing s (scalarReads s) with
  | some a => (s, some a)
  | none => (accumulate s (scalarSamples s), none)

/-- `scalar_step()`, one scalar unit (41 R136). -/
def scalarUnit (s : State) : State :=
  match scalarLoad (nextDraw s) with
  | (s', some a) => busFailure s' a
  | (s', none) => storeThen s' (scalarStores s') scalarAdvance

/-- The writes the scalar unit at seq would make, none if a read fails (70 R244). -/
def scalarUnitStores (s : State) : List (Int × Byte) :=
  match scalarLoad (nextDraw s) with
  | (_, some _) => []
  | (s', none) => scalarStores s'

/-- `start_detect(S)` (41 R130): the first unit is (0, 1, 1, 1). -/
def startScalar (s : State) : State := startDetect .runS 1 s

/-- DETECT.S (41 R130): when idle, the run is accepted or refused with an error code; when busy, dropped. -/
def execDetectS (s : State) : Answer := .next (issue s startScalar)

end Sys2Proof.Machine
end

