-- ==== Sys2Proof/Machine/Transcoder.lean ====
section
/-! DEFINITION. lane_transcoder_8to16 (42_lane_transcoder): the two functions and the commands WIDEN and NARROW. -/

namespace Sys2Proof.Machine

/-- `WIDEN(B)`: `L[j] = zext_16(B[j])` (42 R150). -/
def widenBytes (b : Oct Byte) : Oct Lane := b.map zext16

/-- `NARROW(L)`: `B[j] = L[j][7:0]`, truncating (42 R151). -/
def narrowLanes (l : Oct Lane) : Oct Byte := l.map lowByte

/-- `widen_cmd()` (42 R152). -/
def widenCmd (s : State) : State :=
  completeAtOnce (writeLaneHalves s (widenBytes (laneBytes s)))

/-- `narrow_cmd()` (42 R153). -/
def narrowCmd (s : State) : State :=
  completeAtOnce (writeLaneBytes s (narrowLanes (laneHalves s)))

/-- WIDEN (42 R152): accepted and done in one step when idle, dropped when busy. -/
def execWiden (s : State) : Answer := .next (issue s widenCmd)

/-- NARROW (42 R153): accepted and done in one step when idle, dropped when busy. -/
def execNarrow (s : State) : Answer := .next (issue s narrowCmd)

end Sys2Proof.Machine
end

