-- ==== Sys2Proof/Machine/Vector.lean ====
section
/-! DEFINITION. vectorized_sobel_detector (43_vectorized_sobel_detector): the lane arithmetic, one chunk, the
chunk sequence with tail realignment, and the command DETECT.V. -/

namespace Sys2Proof.Machine

/-! ### Lane arithmetic -/

/-- LNEG, lane negate (43 R171). -/
def lneg (x : Oct Lane) : Oct Lane := x.map fun v => u16 (0 - (v.toNat : Int))

/-- LSHL1, lane shift left by 1 (43 R172). -/
def lshl1 (x : Oct Lane) : Oct Lane := x.map fun v => u16 (2 * (v.toNat : Int))

/-- LADD, lane add, wrapping (43 R173). -/
def ladd (x y : Oct Lane) : Oct Lane := x.zip (fun v w => u16 ((v.toNat : Int) + w.toNat)) y

/-- LABS, lane absolute value (43 R174). -/
def labs (x : Oct Lane) : Oct Lane := x.map fun v => u16 (absInt (s16 v))

/-- LASR3, lane arithmetic shift right by 3 (43 R175). -/
def lasr3 (x : Oct Lane) : Oct Lane := x.map fun v => u16 (asr (s16 v) Config.divShift)

/-- `(0, 0, 0, 0, 0, 0, 0, 0)`, the start of the sums (43 R178). -/
def laneZero : Oct Lane := Oct.const 0#16

/-- SV: the six vertical terms in the document's order (43 R178, coefficients as R176). -/
def verticalSum (v : Win (Oct Lane)) : Oct Lane :=
  let s0 := ladd laneZero (lneg v.a)
  let s1 := ladd s0 (lneg (lshl1 v.b))
  let s2 := ladd s1 (lneg v.c)
  let s3 := ladd s2 v.g
  let s4 := ladd s3 (lshl1 v.h)
  ladd s4 v.i

/-- SH: the six horizontal terms in the document's order (43 R179, coefficients as R176). -/
def horizontalSum (v : Win (Oct Lane)) : Oct Lane :=
  let s0 := ladd laneZero (lneg v.a)
  let s1 := ladd s0 v.c
  let s2 := ladd s1 (lneg (lshl1 v.d))
  let s3 := ladd s2 (lshl1 v.f)
  let s4 := ladd s3 (lneg v.g)
  ladd s4 v.i

/-- VR: the absolute values first, the shifts second (43 R180). -/
def chunkResult (sv sh : Oct Lane) : Oct Lane := ladd (lasr3 (labs sv)) (lasr3 (labs sh))

/-! ### One chunk -/

/-- The lane numbers 0..7 in order. -/
def allLanes : List (Fin 8) := [0, 1, 2, 3, 4, 5, 6, 7]

/-- The active lanes j < n, ascending (43 R177, R185). -/
def activeLanes (n : Nat) : List (Fin 8) := allLanes.filter fun j => decide (j.val < n)

/-- The addresses operand X reads: `LW(X) + j` for the active lanes (43 R177, 40 R120). -/
def laneReads (s : State) (x : Nbr) : List Int :=
  (activeLanes s.seq.n).map fun j => nbrAddr s x + j.val

/-- The addresses a vector unit reads, in its order: offset, then lane (43 R177). -/
def vectorReads (s : State) : List Int := allNbrs.flatMap (laneReads s)

/-- `BX[j]` (43 R177): an active lane reads memory, an inactive one holds 0 and reads nothing. -/
def laneSamples (s : State) (x : Nbr) : Oct Byte :=
  Oct.ofFn fun j =>
    if j.val < s.seq.n then blockRead s (8 * nbrIndex x + j.val) (nbrAddr s x + j.val) else 0#8

/-- The operand load (43 R177), offset by offset: the first failing read, with the operands loaded before it. -/
def loadOperands (s : State) : List Nbr → State × Option Int
  | [] => (s, none)
  | x :: rest =>
    match firstFailing s (laneReads s x) with
    | some a => (s, some a)
    | none => loadOperands (setVop s (s.vop.set x (widenBytes (laneSamples s x)))) rest

/-- SV, SH and VR of the loaded operands (43 R178 to R180). -/
def computeChunk (s : State) : State :=
  { s with
    sv := verticalSum s.vop
    sh := horizontalSum s.vop
    vr := chunkResult (verticalSum s.vop) (horizontalSum s.vop) }

/-- The writes of a chunk, once VR holds its result: `OB <- NARROW(VR)`, the active lanes in ascending column
(43 R181). -/
def vectorStores (s : State) : List (Int × Byte) :=
  (activeLanes s.seq.n).map fun j =>
    (outAddr s.lat s.seq.p s.seq.r (s.seq.c + j.val), (narrowLanes s.vr).get j)

/-- The active lanes of the first chunk of every row, `min(8, W - 2)` (43 R188, R189). -/
def firstLanes (w : Word) : Nat := min Config.lanes (w.toNat - 2)

/-- The next chunk's first column: 8 further, pulled back so that the chunk ends at the last interior column
(43 R188, tail realignment). `c2 + 7 > W - 2` is written `c2 + 9 > W`. -/
def nextColumn (w c : Nat) : Nat := if c + 8 + 9 > w then w - 9 else c + 8

/-- `vec_advance()` (43 R188). `c + 8 <= W - 2` is written `c + 10 ≤ W`. -/
def vectorAdvance (s : State) : State :=
  if s.seq.n = 8 ∧ s.seq.c + 10 ≤ s.lat.w.toNat then
    setSeq s ⟨s.seq.p, s.seq.r, nextColumn s.lat.w.toNat s.seq.c, 8⟩
  else if s.seq.r + 2 < s.lat.h.toNat then
    setSeq s ⟨s.seq.p, s.seq.r + 1, 1, firstLanes s.lat.w⟩
  else if s.seq.p < 2 then
    setSeq s ⟨s.seq.p + 1, 1, 1, firstLanes s.lat.w⟩
  else finish s

/-- A vector unit up to its writes: the first read that fails, or the state with the chunk's result (43 R187). -/
def vectorLoad (s : State) : State × Option Int :=
  match loadOperands s allNbrs with
  | (s', some a) => (s', some a)
  | (s', none) => (computeChunk s', none)

/-- One vector unit (43 R187). -/
def vectorUnit (s : State) : State :=
  match vectorLoad (nextDraw s) with
  | (s', some a) => busFailure s' a
  | (s', none) => storeThen s' (vectorStores s') vectorAdvance

/-- The writes the vector unit at seq would make, none if a read fails (70 R244). -/
def vectorUnitStores (s : State) : List (Int × Byte) :=
  match vectorLoad (nextDraw s) with
  | (_, some _) => []
  | (s', none) => vectorStores s'

/-- The chunk list CH(W) of a row: (first column, active lanes) (43 R183). -/
def chunkList (w : Nat) : List (Nat × Nat) :=
  let n := w - 2
  if n < 8 then [(1, n)]
  else
    (List.range (n / 8)).map (fun k => (1 + 8 * k, 8)) ++ (if n % 8 = 0 then [] else [(w - 9, 8)])

/-- `start_detect(V)` (43 R189): the first unit is (0, 1, 1, min(8, W - 2)). -/
def startVector (s : State) : State := startDetect .runV (firstLanes s.width) s

/-- DETECT.V (43 R189): when idle, the run is accepted or refused with an error code; when busy, dropped. -/
def execDetectV (s : State) : Answer := .next (issue s startVector)

end Sys2Proof.Machine
end

