-- ==== Sys2Proof/Machine/Dispatch.lean ====
section
/-! DEFINITION. The meaning of every command: what a host write of its word to CMD does to the block. -/

namespace Sys2Proof.Machine

def exec (i : Instr) (s : State) : Host.Outcome State Fault Refusal :=
  match i with
  | .detectS => Sys2Proof.Machine.execDetectS s
  | .detectV => Sys2Proof.Machine.execDetectV s
  | .widen => Sys2Proof.Machine.execWiden s
  | .narrow => Sys2Proof.Machine.execNarrow s

end Sys2Proof.Machine
end

