-- ==== Sys2Proof/Machine/Bus.lean ====
section
/-! DEFINITION. What reaches the block from outside and what the block does on its own turn: host register and
memory accesses (10_state R24 to R35, 20 R62, R76), the `wait` loop (30 R100), reset (70 R240 to R244), and the
block's step (10 R38). -/

namespace Sys2Proof.Machine

/-- One block step: the unit at seq while a command runs (10 R38); idle, the block does nothing and makes no
memory access (60 R230, 70 R245). -/
def blockStep (s : State) : State :=
  match s.phase with
  | .idle => s
  | .runS => scalarUnit s
  | .runV => vectorUnit s

/-- The writes of the unit in progress (70 R244). -/
def unitStores (s : State) : List (Int × Byte) :=
  match s.phase with
  | .idle => []
  | .runS => scalarUnitStores s
  | .runV => vectorUnitStores s

/-- A command word reaches CMD (10 R24, 30 R94): a legal word is executed, every other one ends with ILLEGAL_CMD
(30 R96, 60 R212). -/
def commandWrite (s : State) (w : Word) : Answer :=
  match decode w with
  | .command i => exec i s
  | .illegal _ => .next (issue s fun t => raiseError t .illegalCmd 0#32)

/-- A host access to the register window is an aligned 32-bit one (20 R62). -/
def accessAllowed (width : AccessWidth) (off : BitVec 8) : Bool :=
  (width == .b32) && (off.toNat % 4 == 0)

/-- A host write to the register window (10 R23, R34, 20 R62). -/
def serveRegWrite (s : State) (width : AccessWidth) (off : BitVec 8) (v : Word) : Answer :=
  if accessAllowed width off then
    match regAt off with
    | none => .next s
    | some .cmd => commandWrite s v
    | some r => .next (writeReg s r v)
  else .refused (.badRegisterAccess width off)

/-- A host read of the register window; an unmapped offset reads 0 (10 R23, R34, 20 R62). -/
def serveRegRead (s : State) (width : AccessWidth) (off : BitVec 8) : Answer :=
  if accessAllowed width off then
    match regAt off with
    | none => .next { s with busData := 0#32 }
    | some .status => .next (pollStatus s)
    | some r => .next { s with busData := readReg s r }
  else .refused (.badRegisterAccess width off)

/-- A host write of one byte of `Mem`: a race where it lies in a window not handed over (20 R76, 70 R248). -/
def serveMemWrite (s : State) (addr : Word) (b : Byte) : Answer :=
  let a := addr.toNat
  if memOK s a = false then .fault (.hostNoMemory addr)
  else if racesIn s a || racesOut s a then .next (raceWrite s a b)
  else .next (storeByte s a b)

/-- A host read of one byte of `Mem`: any byte in an output window not handed over (20 R76, 70 R248); an input window
may be read (70 R248). -/
def serveMemRead (s : State) (addr : Word) : Answer :=
  let a := addr.toNat
  if memOK s a = false then .fault (.hostNoMemory addr)
  else if racesOut s a then
    .next { nextDraw s with busData := (Config.freeByte (s.draws + 1) 0).zeroExtend 32 }
  else .next { s with busData := (Memory.read s.mem a).zeroExtend 32 }

/-- One poll of `wait` (30 R100): the host reads STATUS; while BUSY reads 1 it will poll again, and the block
takes its step meanwhile (log entry 14). -/
def serveWait (s : State) : State :=
  if busy s then blockStep { pollStatus s with inputs := .wait :: s.inputs } else pollStatus s

/-- Reset (70 R240): at most `k` writes of the unit in progress are done, in ascending column, up to a failing
one; the block is as after reset and `Mem` is kept (70 R241 to R244). -/
def serveReset (s : State) (k : Nat) : State :=
  resetBlock (storeBytes (nextDraw s) ((unitStores s).take k)).1

/-- What serving one input does. -/
def serve (s : State) (input : Input) : Answer :=
  match input with
  | .regWrite width off v => serveRegWrite s width off v
  | .regRead width off => serveRegRead s width off
  | .memWrite addr b => serveMemWrite s addr b
  | .memRead addr => serveMemRead s addr
  | .wait => .next (serveWait s)
  | .blockTurn => .next (blockStep s)
  | .reset k => .next (serveReset s k)

/-- One step: the oldest waiting input is served; with none waiting, the block takes its turn (70 R252: "while
BUSY = 1 the block keeps taking steps"; log entry 15). -/
def advance (s : State) : Answer :=
  match s.inputs with
  | [] => .next (blockStep s)
  | input :: rest => serve { s with inputs := rest } input

/-- The host's write of the command word `w` to CMD, waiting to be served next (10 R24). -/
def placeCommand (s : State) (w : Word) : State :=
  { s with inputs := .regWrite .b32 (regOffset .cmd) w :: s.inputs }

end Sys2Proof.Machine
end

