-- ==== Sys2Proof/Machine/Step.lean ====
section
/-! DEFINITION. The step of the machine, and where a command word waits to be run. -/

namespace Sys2Proof.Machine

/-- One step of the machine (10 R20): the host's or the platform's next operation, or the block's turn. -/
def step (s : State) : Host.Outcome State Fault Refusal :=
  advance s

/-- `s` with the command word `w` written to CMD as the very next thing that happens (log entry 2). A command is
not fetched from memory (30 R90): the host's write of it to CMD is what runs it. -/
def State.withFetchWord (s : State) (nbits w : Nat) : State :=
  placeCommand s (tableWord nbits w)

end Sys2Proof.Machine
end

