-- ==== Sys2Proof/Machine/Script.lean ====
section
/-! DEFINITION. The host-script lines and pseudo-instructions of 30_encoding R98 to R100, as the bus operations they
stand for. -/

namespace Sys2Proof.Machine

/-- One line of a host script (30 R99) or pseudo-instruction (30 R100). -/
inductive ScriptLine where
  /-- `wreg NAME, imm32`. -/
  | wreg (r : Reg) (v : Word)
  /-- `rreg NAME`. -/
  | rreg (r : Reg)
  /-- `wmem addr, byte`. -/
  | wmem (addr : Word) (b : Byte)
  /-- `rmem addr`. -/
  | rmem (addr : Word)
  /-- `; text`. -/
  | comment (text : String)
  /-- `cmd m`. -/
  | cmd (i : Instr)
  /-- `detect v`. -/
  | detect (v : Nat)
  /-- `wait`. -/
  | wait
  /-- `setup w, h, in, out`. -/
  | setup (w h inBase outBase : Word)
  /-- `run v`. -/
  | run (v : Nat)
  deriving DecidableEq, Repr

/-- `wreg NAME, imm32` as a bus operation: the offset from REG_BASE and a 32-bit value (30 R99). -/
def wregInput (r : Reg) (v : Word) : Input := .regWrite .b32 (regOffset r) v

/-- The command of `detect v`: 0 scalar, 1 vectorized, refused for any other v (30 R100). -/
def detectCommand (v : Nat) : Option Instr :=
  if v = 0 then some .detectS else if v = 1 then some .detectV else none

/-- The bus operations of one line (30 R99, R100); none where the line is refused. -/
def expandLine (l : ScriptLine) : Option (List Input) :=
  match l with
  | .wreg r v => some [wregInput r v]
  | .rreg r => some [.regRead .b32 (regOffset r)]
  | .wmem addr b => some [.memWrite addr b]
  | .rmem addr => some [.memRead addr]
  | .comment _ => some []
  | .cmd i => some [wregInput .cmd (encode i)]
  | .detect v => (detectCommand v).map fun i => [wregInput .cmd (encode i)]
  | .wait => some [.wait]
  | .setup w h inBase outBase =>
    some [wregInput .bpp (BitVec.ofNat 32 Config.bppRequired), wregInput .width w, wregInput .height h,
      wregInput .inBase inBase, wregInput .outBase outBase]
  | .run v => (detectCommand v).map fun i => [wregInput .cmd (encode i), .wait]

/-- The bus operations of a host script, line by line; none where a line is refused. -/
def expandScript : List ScriptLine → Option (List Input)
  | [] => some []
  | l :: rest => do
    let now ← expandLine l
    let later ← expandScript rest
    return now ++ later

end Sys2Proof.Machine
end

