-- ==== Sys2Proof/Safety.lean ====
section
/-! DEFINITION. The words claims are made in: when memory backs a run, which pixels are interior, what a
neighbourhood holds, and the invariant every step keeps. -/

namespace Sys2Proof.Machine

/-- Memory responds at every address from `base` on, `len` of them (20 R69). -/
def Responds (s : State) (base len : Nat) : Prop :=
  ∀ a : Nat, base ≤ a → a < base + len → memOK s a = true

/-- `MemOK` over both windows of the latched operands (70 R246 step 1). -/
def Backed (s : State) (l : Latch) : Prop :=
  Responds s l.inBase.toNat (windowLength l) ∧ Responds s l.outBase.toNat (windowLength l)

/-- The operands pass the checks of 60 R218 beyond the depth: dimensions, range and overlap. -/
structure LatchLegal (l : Latch) : Prop where
  width : 3 ≤ l.w.toNat
  height : 3 ≤ l.h.toNat
  inRange : l.inBase.toNat + windowLength l ≤ 2 ^ 32
  outRange : l.outBase.toNat + windowLength l ≤ 2 ^ 32
  disjoint : l.outBase.toNat + windowLength l ≤ l.inBase.toNat ∨
    l.inBase.toNat + windowLength l ≤ l.outBase.toNat

/-- An interior pixel: rows 1..H-2, columns 1..W-2 of one of the three planes (40 R117). -/
structure Interior (l : Latch) (p r c : Nat) : Prop where
  plane : p < 3
  rowLow : 1 ≤ r
  rowHigh : r + 2 ≤ l.h.toNat
  colLow : 1 ≤ c
  colHigh : c + 2 ≤ l.w.toNat

/-- The nine samples around (p, r, c) in memory `m` (40 R113, R114). -/
def neighbourhood (l : Latch) (m : Memory) (p r c : Nat) : Win Byte :=
  Win.ofFn fun x => Memory.read m (inAddr l p (r + rowOffset x) (c + colOffset x)).toNat

/-- The nine widened operands a chunk computes on, from the bytes loaded (43 R177). -/
def widened (b : Win (Oct Byte)) : Win (Oct Lane) := Win.ofFn fun x => widenBytes (b.get x)

/-- The 3x3 neighbourhood that lane `j` of the loaded bytes holds (42 R156, 43 R177). -/
def laneWindow (b : Win (Oct Byte)) (j : Fin 8) : Win Byte := Win.ofFn fun x => (b.get x).get j

/-- The six vertical terms of a chunk, in the document's order (43 R178). -/
def verticalTerms (v : Win (Oct Lane)) : List (Oct Lane) :=
  [lneg v.a, lneg (lshl1 v.b), lneg v.c, v.g, lshl1 v.h, v.i]

/-- The six horizontal terms of a chunk, in the document's order (43 R179). -/
def horizontalTerms (v : Win (Oct Lane)) : List (Oct Lane) :=
  [lneg v.a, v.c, lneg (lshl1 v.d), lshl1 v.f, lneg v.g, v.i]

/-- The integers the six vertical terms stand for (40 R114). -/
def verticalAddends (w : Win Byte) : List Int :=
  [-(w.a.toNat : Int), -(2 * w.b.toNat), -(w.c.toNat), w.g.toNat, 2 * w.h.toNat, w.i.toNat]

/-- The integers the six horizontal terms stand for (40 R114). -/
def horizontalAddends (w : Win Byte) : List Int :=
  [-(w.a.toNat : Int), w.c.toNat, -(2 * w.d.toNat), 2 * w.f.toNat, -(w.g.toNat), w.i.toNat]

/-- The partial value after the first `k` terms, added with LADD from zero in order (43 R178, R179). -/
def partialValue (terms : List (Oct Lane)) (k : Nat) : Oct Lane := (terms.take k).foldl ladd laneZero

/-- Two memories agree on plane `p` of the input window (40 R110). -/
def PlaneAgrees (l : Latch) (p : Nat) (m m' : Memory) : Prop :=
  ∀ a : Nat, l.inBase.toNat + p * (l.w.toNat * l.h.toNat) ≤ a →
    a < l.inBase.toNat + (p + 1) * (l.w.toNat * l.h.toNat) → Memory.read m a = Memory.read m' a

/-- The operand and LANE registers, which no run changes (10 R35, 60 R219). -/
def SameRegisters (s t : State) : Prop :=
  t.bpp = s.bpp ∧ t.width = s.width ∧ t.height = s.height ∧ t.inBase = s.inBase ∧
    t.outBase = s.outBase ∧ t.laneB0 = s.laneB0 ∧ t.laneB1 = s.laneB1 ∧ t.laneW0 = s.laneW0 ∧
    t.laneW1 = s.laneW1 ∧ t.laneW2 = s.laneW2 ∧ t.laneW3 = s.laneW3

/-- The address of the output sample (p, r, c) (40 R111). -/
def outByte (l : Latch) (p r c : Nat) : Nat := (outAddr l p r c).toNat

/-- No race has left a byte any value (70 R248 observed). -/
def RaceFree (s : State) : Prop := s.racedIn = [] ∧ s.racedOut = []

/-- Ready for a DETECT command (70 R246): idle, nothing else waiting, no race, depth 24, operands legal, memory behind
both windows. -/
structure Ready (s : State) : Prop where
  idle : s.phase = .idle
  alone : s.inputs = []
  quiet : RaceFree s
  depth : s.bpp = 24#32
  legal : LatchLegal (latched s)
  backed : Backed s (latched s)
  canonical : Memory.wf s.mem = true

/-- A completed run of a DETECT command from `s` to `t` (20 R82, 40 R118, 70 R254): STATUS = 0x00000002, idle,
every interior output byte is the pixel function of the input, every other byte of memory is what it was, and
every host register but STATUS and FAULT_ADDR is what it was. -/
structure RunResult (s t : State) : Prop where
  status : statusWord t = 0x00000002#32
  idle : t.phase = .idle
  faultAddr : t.faultAddr = 0#32
  inputs : t.inputs = []
  interior : ∀ p r c, Interior (latched s) p r c →
    Memory.read t.mem (outByte (latched s) p r c) = spx (neighbourhood (latched s) s.mem p r c)
  elsewhere : ∀ a, (∀ p r c, Interior (latched s) p r c → a ≠ outByte (latched s) p r c) →
    Memory.read t.mem a = Memory.read s.mem a
  registers : SameRegisters s t

/-- The invariant of the machine: what the rules say of every reachable state. -/
structure Invariant (s : State) : Prop where
  /-- Memory is in canonical form. -/
  memCanonical : Memory.wf s.mem = true
  /-- Memory lists only addresses that exist (20 R60). -/
  memInSpace : Memory.inSpace s.mem = true
  /-- While a command runs, DONE = ERR = ERRCODE = 0 (10 R25). -/
  statusBusy : s.phase ≠ .idle → s.status = statusClear
  /-- Idle, STATUS is clear, done, or done with one of the six errors (10 R25). -/
  statusIdle : s.phase = .idle →
    s.status = statusClear ∨ s.status = statusDone ∨ ∃ e, s.status = statusError e
  /-- FAULT_ADDR is 0 but after a BUS_ERROR (10 R26). -/
  faultAddr : s.faultAddr ≠ 0#32 → s.phase = .idle ∧ s.status = statusError .busError
  /-- A running command's operands passed the checks (60 R218). -/
  operands : s.phase ≠ .idle → LatchLegal s.lat
  /-- The sequencer names a pixel of the interior, one lane (10 R38, 41 R136). -/
  scalarSeq : s.phase = .runS → Interior s.lat s.seq.p s.seq.r s.seq.c ∧ s.seq.n = 1
  /-- The sequencer names a chunk of CH(W) in an interior row (10 R38, 43 R187). -/
  vectorSeq : s.phase = .runV → s.seq.p < 3 ∧ 1 ≤ s.seq.r ∧ s.seq.r + 2 ≤ s.lat.h.toNat ∧
    (s.seq.c, s.seq.n) ∈ chunkList s.lat.w.toNat
  /-- The windows of a running command are not handed over (70 R248). -/
  runUnread : s.phase ≠ .idle → s.lat ∈ s.unread
  /-- The commands whose windows are not handed over passed the checks (60 R218). -/
  unreadLegal : ∀ l ∈ s.unread, LatchLegal l
  /-- Raced input bytes lie in an input window not handed over (20 R76). -/
  racedIn : ∀ a ∈ s.racedIn, racesIn s a = true
  /-- Raced output bytes lie in an output window not handed over (20 R76). -/
  racedOut : ∀ a ∈ s.racedOut, racesOut s a = true

end Sys2Proof.Machine
end

