-- ==== Sys2Proof/Certificates/Slice0/Obligations.lean ====
section
/-! DEFINITION. The statements for the provers. Each formalises rules of spec/, named in its docstring; free values
and the reset values the model names are in none of their conclusions. -/

open Sys2Proof Sys2Proof.Machine

/-! ### Encoding -/

/-- The words of 30 R98 are the words of the four commands, both ways, and the illegal words of 95 T-E1 to T-E5 are
no command. -/
def Obligations.CommandWordsDecode : Prop :=
  decode 0x00000001#32 = .command .detectS ∧ decode 0x00000011#32 = .command .detectV ∧
    decode 0x00000002#32 = .command .widen ∧ decode 0x00000003#32 = .command .narrow ∧
    encode .detectS = 0x00000001#32 ∧ encode .detectV = 0x00000011#32 ∧
    encode .widen = 0x00000002#32 ∧ encode .narrow = 0x00000003#32 ∧
    ∀ w ∈ [0x00000000#32, 0x00000012#32, 0x00000021#32, 0x80000001#32, 0x00000004#32, 0x0000000F#32,
      0x00000013#32], (decode w).instr? = none

/-- Decoding the word of a command gives the command back (30 R98, R101). -/
def Obligations.EncodeThenDecode : Prop :=
  ∀ i : Instr, decode (encode i) = .command i ∧ decodeTableWord 32 (encode i).toNat = some i ∧
    i.wellFormed = true

/-- 30 R96, 60 R212: exactly four words are legal; every other word written to CMD while the block is idle ends with
ILLEGAL_CMD (code 1), reads no operand register and touches no memory: the whole next state is given. -/
def Obligations.LegalWordsAreExactlyFour : Prop :=
  ∀ w : Word,
    ((∃ i, decode w = .command i) ↔
      w = 0x00000001#32 ∨ w = 0x00000011#32 ∨ w = 0x00000002#32 ∨ w = 0x00000003#32) ∧
    ∀ (s : State) (rest : List Input), s.phase = .idle → s.inputs = .regWrite .b32 0x00#8 w :: rest →
      w ≠ 0x00000001#32 → w ≠ 0x00000011#32 → w ≠ 0x00000002#32 → w ≠ 0x00000003#32 →
      step s = .next { s with inputs := rest, status := ⟨true, true, 1#4⟩, faultAddr := 0#32 }

/-- 30 R101: a word selects a row when `(w & mask) == match`; the decoder answers a row's command exactly when the
row is selected, and at most one row is. -/
def Obligations.OpcodeMapSelects : Prop :=
  ∀ w : Word,
    (∀ i, decode w = .command i ↔ ∃ row ∈ opcodeMap, row.selects w = true ∧ row.instr = i) ∧
    ∀ row ∈ opcodeMap, ∀ row' ∈ opcodeMap, row.mask = 0xFFFFFFFF#32 ∧
      (row.selects w = true → row'.selects w = true → row = row')

/-- 30 R91 to R93: OPC is w mod 16, V is bit 4, RSV is the rest; a word is a command exactly when RSV = 0 and
OPC = 1 (V selects the detector), or OPC = 2 or 3 with V = 0. -/
def Obligations.FieldsSelectCommand : Prop :=
  ∀ w : Word,
    (decode w = .command .detectS ↔ w.toNat / 32 = 0 ∧ w.toNat % 16 = 1 ∧ w.toNat / 16 % 2 = 0) ∧
    (decode w = .command .detectV ↔ w.toNat / 32 = 0 ∧ w.toNat % 16 = 1 ∧ w.toNat / 16 % 2 = 1) ∧
    (decode w = .command .widen ↔ w.toNat / 32 = 0 ∧ w.toNat % 16 = 2 ∧ w.toNat / 16 % 2 = 0) ∧
    (decode w = .command .narrow ↔ w.toNat / 32 = 0 ∧ w.toNat % 16 = 3 ∧ w.toNat / 16 % 2 = 0)

/-! ### A command reaches the block -/

/-- A step that serves a CMD write of a legal word runs the decoded command (10 R24, 30 R94); around it, the step
only takes the write off the waiting operations (log entries 1 and 2). The word placed by `withFetchWord` is served next. -/
def Obligations.StepRunsDecodedCommand : Prop :=
  (∀ (s : State) (w : Word) (rest : List Input) (i : Instr),
    s.inputs = .regWrite .b32 0x00#8 w :: rest → decode w = .command i →
    step s = exec i { s with inputs := rest }) ∧
  ∀ (s : State) (w : Nat) (i : Instr), decodeTableWord 32 w = some i →
    step (s.withFetchWord 32 w) = exec i s

/-- 70 R247: a CMD write while BUSY = 1 is dropped, whatever the word: no effect, no error. -/
def Obligations.BusyCommandDropped : Prop :=
  ∀ s : State, s.phase ≠ .idle →
    (∀ i, exec i s = .next s) ∧
    ∀ (w : Word) (rest : List Input), s.inputs = .regWrite .b32 0x00#8 w :: rest →
      step s = .next { s with inputs := rest }

/-- Every command, in every state, answers with a next state: no command stops the machine (60 R210, R231). -/
def Obligations.EveryCommandAnswers : Prop :=
  ∀ (i : Instr) (s : State), ∃ t, exec i s = .next t

/-- The frame of every command (30 R95, 41 R130, 43 R189, 42 R152, R153, 60 R219): the acceptance step makes no
memory access, so every byte reads as before; the operand registers, the datapath registers and everything outside
the block are unchanged; only WIDEN writes LANE_W, only NARROW writes LANE_B, only a DETECT changes phase, lat or
seq, or opens windows. -/
def Obligations.CommandFrame : Prop :=
  ∀ (i : Instr) (s t : State), exec i s = .next t →
    (∀ a, Memory.read t.mem a = Memory.read s.mem a) ∧
    t.bpp = s.bpp ∧ t.width = s.width ∧ t.height = s.height ∧ t.inBase = s.inBase ∧
    t.outBase = s.outBase ∧ t.vop = s.vop ∧ t.sv = s.sv ∧ t.sh = s.sh ∧ t.vr = s.vr ∧
    t.ssv = s.ssv ∧ t.ssh = s.ssh ∧ t.memMap = s.memMap ∧ t.inputs = s.inputs ∧
    t.busData = s.busData ∧ t.draws = s.draws ∧ t.racedIn = s.racedIn ∧
    (i ≠ .widen → t.laneW0 = s.laneW0 ∧ t.laneW1 = s.laneW1 ∧ t.laneW2 = s.laneW2 ∧
      t.laneW3 = s.laneW3) ∧
    (i ≠ .narrow → t.laneB0 = s.laneB0 ∧ t.laneB1 = s.laneB1) ∧
    (i = .widen ∨ i = .narrow → t.phase = s.phase ∧ t.lat = s.lat ∧ t.seq = s.seq ∧
      t.unread = s.unread ∧ t.racedOut = s.racedOut)

/-! ### The transcoder -/

/-- 42 R150, R152: the word 0x00000002 is WIDEN; WIDEN, accepted idle, puts the zero-extended bytes B[2k], B[2k+1] into LANE_Wk, sets
STATUS = 0x00000002 and FAULT_ADDR = 0, and changes nothing else. -/
def Obligations.WidenCompletes : Prop :=
  decode 0x00000002#32 = .command .widen ∧
  ∀ s : State, s.phase = .idle → ∃ t, exec .widen s = .next t ∧ statusWord t = 0x00000002#32 ∧
    t = { s with
      status := ⟨true, false, 0#4⟩
      faultAddr := 0#32
      laneW0 := (0#8 ++ s.laneB0.extractLsb' 8 8) ++ (0#8 ++ s.laneB0.extractLsb' 0 8)
      laneW1 := (0#8 ++ s.laneB0.extractLsb' 24 8) ++ (0#8 ++ s.laneB0.extractLsb' 16 8)
      laneW2 := (0#8 ++ s.laneB1.extractLsb' 8 8) ++ (0#8 ++ s.laneB1.extractLsb' 0 8)
      laneW3 := (0#8 ++ s.laneB1.extractLsb' 24 8) ++ (0#8 ++ s.laneB1.extractLsb' 16 8) }

/-- 42 R151, R153: the word 0x00000003 is NARROW; NARROW, accepted idle, puts the low byte of lane L[j] into byte B[j], truncating, sets
STATUS = 0x00000002 and FAULT_ADDR = 0, and changes nothing else. -/
def Obligations.NarrowCompletes : Prop :=
  decode 0x00000003#32 = .command .narrow ∧
  ∀ s : State, s.phase = .idle → ∃ t, exec .narrow s = .next t ∧ statusWord t = 0x00000002#32 ∧
    t = { s with
      status := ⟨true, false, 0#4⟩
      faultAddr := 0#32
      laneB0 := (s.laneW1.extractLsb' 16 8 ++ s.laneW1.extractLsb' 0 8) ++
        (s.laneW0.extractLsb' 16 8 ++ s.laneW0.extractLsb' 0 8)
      laneB1 := (s.laneW3.extractLsb' 16 8 ++ s.laneW3.extractLsb' 0 8) ++
        (s.laneW2.extractLsb' 16 8 ++ s.laneW2.extractLsb' 0 8) }

/-- 42 R154: NARROW(WIDEN(x)) = x for every eight bytes; `widen` followed by `narrow` restores LANE_B0 and LANE_B1;
WIDEN(NARROW(L)) = L only when every lane has bits 15:8 zero. -/
def Obligations.TranscoderRoundTrip : Prop :=
  (∀ b : Oct Byte, narrowLanes (widenBytes b) = b) ∧
  (∀ s : State, s.phase = .idle → ∃ t u, exec .widen s = .next t ∧ exec .narrow t = .next u ∧
    u.laneB0 = s.laneB0 ∧ u.laneB1 = s.laneB1) ∧
  ∀ l : Oct Lane, widenBytes (narrowLanes l) = l ↔ ∀ j, (l.get j).extractLsb' 8 8 = 0#8

/-! ### Lane arithmetic -/

/-- 43 R171 to R173: LNEG is two's-complement negation, LSHL1 is `{X[j][14:0], 0}`, LADD wraps modulo 2^16, each lane
on its own. -/
def Obligations.LaneNegateShiftAdd : Prop :=
  ∀ (x y : Oct Lane) (j : Fin 8),
    (lneg x).get j = -(x.get j) ∧
    (lshl1 x).get j = (x.get j).extractLsb' 0 15 ++ 0#1 ∧
    (ladd x y).get j = x.get j + y.get j

/-- 43 R174, R175: LABS negates exactly the lanes whose sign bit is set, and LASR3 is
`{X[j][15], X[j][15], X[j][15], X[j][15:3]}`, floor(x / 8) of the signed value (two's complement: log entry 19). -/
def Obligations.LaneAbsAndShift : Prop :=
  ∀ (x : Oct Lane) (j : Fin 8),
    (labs x).get j = (if (x.get j).msb then -(x.get j) else x.get j) ∧
    (lasr3 x).get j = (x.get j).extractLsb' 15 1 ++ ((x.get j).extractLsb' 15 1 ++
      ((x.get j).extractLsb' 15 1 ++ (x.get j).extractLsb' 3 13)) ∧
    ((lasr3 x).get j).toInt = Int.fdiv (x.get j).toInt 8

/-- 43 R176: the coefficients 2, -1 and -2 are LSHL1, LNEG and LNEG of LSHL1, modulo 2^16, and the order of the last
two does not matter. -/
def Obligations.CoefficientsWithoutMultiplier : Prop :=
  ∀ x : Oct Lane, lneg (lshl1 x) = lshl1 (lneg x) ∧
    ∀ j : Fin 8, (lshl1 x).get j = 2#16 * x.get j ∧ (lneg x).get j = (-1 : BitVec 16) * x.get j ∧
      (lneg (lshl1 x)).get j = (-2 : BitVec 16) * x.get j

/-- 43 R182: no lane overflows. In every lane: an operand reads 0..255, LSHL1 of it 0..510 exactly twice it, LNEG of
either exactly its negative; every partial value of SV and of SH reads as the exact partial sum, within [-1020, 1020],
and the last is the kernel sum; LABS reads 0..1020, LASR3 0..127, the final LADD 0..191, each exactly; an inactive lane
holds 0 throughout. -/
def Obligations.LaneSumsExact : Prop :=
  (∀ v : Win (Oct Lane), verticalSum v = partialValue (verticalTerms v) 6 ∧
    horizontalSum v = partialValue (horizontalTerms v) 6) ∧
  (∀ (s : State) (x : Nbr) (j : Fin 8), s.seq.n ≤ j.val → (laneSamples s x).get j = 0#8) ∧
  ∀ (b : Win (Oct Byte)) (j : Fin 8),
    (∀ x, ∃ v : Int, 0 ≤ v ∧ v ≤ 255 ∧ v = ((b.get x).get j).toNat ∧
      (((widened b).get x).get j).toInt = v ∧
      ((lneg ((widened b).get x)).get j).toInt = -v ∧
      ((lshl1 ((widened b).get x)).get j).toInt = 2 * v ∧
      ((lneg (lshl1 ((widened b).get x))).get j).toInt = -(2 * v)) ∧
    (∀ k, ((partialValue (verticalTerms (widened b)) k).get j).toInt =
        ((verticalAddends (laneWindow b j)).take k).sum ∧
      |((verticalAddends (laneWindow b j)).take k).sum| ≤ 1020 ∧
      ((partialValue (horizontalTerms (widened b)) k).get j).toInt =
        ((horizontalAddends (laneWindow b j)).take k).sum ∧
      |((horizontalAddends (laneWindow b j)).take k).sum| ≤ 1020) ∧
    ((verticalSum (widened b)).get j).toInt = sumV (laneWindow b j) ∧
    ((horizontalSum (widened b)).get j).toInt = sumH (laneWindow b j) ∧
    ((labs (verticalSum (widened b))).get j).toInt = |sumV (laneWindow b j)| ∧
    ((labs (horizontalSum (widened b))).get j).toInt = |sumH (laneWindow b j)| ∧
    ((lasr3 (labs (verticalSum (widened b)))).get j).toInt = |sumV (laneWindow b j)| / 8 ∧
    ((lasr3 (labs (horizontalSum (widened b)))).get j).toInt = |sumH (laneWindow b j)| / 8 ∧
    |sumV (laneWindow b j)| / 8 ≤ 127 ∧ |sumH (laneWindow b j)| / 8 ≤ 127 ∧
    ((chunkResult (verticalSum (widened b)) (horizontalSum (widened b))).get j).toInt =
      |sumV (laneWindow b j)| / 8 + |sumH (laneWindow b j)| / 8 ∧
    |sumV (laneWindow b j)| / 8 + |sumH (laneWindow b j)| / 8 ≤ 191 ∧
    ((∀ x, (b.get x).get j = 0#8) →
      (∀ k, (partialValue (verticalTerms (widened b)) k).get j = 0#16 ∧
        (partialValue (horizontalTerms (widened b)) k).get j = 0#16) ∧
      (chunkResult (verticalSum (widened b)) (horizontalSum (widened b))).get j = 0#16)

/-- 43 R190: one lane of a chunk gives, after absolute value, shift, add and truncation, the byte the scalar pixel
function gives. -/
def Obligations.ChunkLaneEqualsScalarPixel : Prop :=
  ∀ (b : Win (Oct Byte)) (j : Fin 8),
    (narrowLanes (chunkResult (verticalSum (widened b)) (horizontalSum (widened b)))).get j =
      spx (laneWindow b j)

/-! ### Kernels and the pixel function -/

/-- 40 R112, R114: the kernels; for an interior pixel, SUMV and SUMH are the sums of the kernel entries times the
samples at the nine offsets, and the six-term forms are the same integers. -/
def Obligations.KernelSumForms : Prop :=
  kernelV = [[-1, -2, -1], [0, 0, 0], [1, 2, 1]] ∧ kernelH = [[-1, 0, 1], [-2, 0, 2], [-1, 0, 1]] ∧
  ∀ (l : Latch) (m : Memory) (p r c : Nat), Interior l p r c →
    ∀ sample : Int → Int → Int,
      (∀ k j, sample k j = ((Memory.read m (inAddr l p (r + k) (c + j)).toNat).toNat : Int)) →
      sumV (neighbourhood l m p r c) = ([-1, 0, 1].map fun k => ([-1, 0, 1].map fun j =>
        (kernelV.getD (k + 1).toNat []).getD (j + 1).toNat 0 * sample k j).sum).sum ∧
      sumV (neighbourhood l m p r c) = -sample (-1) (-1) - 2 * sample (-1) 0 - sample (-1) 1 +
        sample 1 (-1) + 2 * sample 1 0 + sample 1 1 ∧
      sumH (neighbourhood l m p r c) = ([-1, 0, 1].map fun k => ([-1, 0, 1].map fun j =>
        (kernelH.getD (k + 1).toNat []).getD (j + 1).toNat 0 * sample k j).sum).sum ∧
      sumH (neighbourhood l m p r c) = -sample (-1) (-1) + sample (-1) 1 - 2 * sample 0 (-1) +
        2 * sample 0 1 - sample 1 (-1) + sample 1 1

/-- 40 R115: SUMV and SUMH lie in [-1020, 1020], both ends are reached by both, and every partial sum of a subset of
the terms lies there too. -/
def Obligations.KernelSumRange : Prop :=
  (∀ (w : Win Byte) (kept : List Nbr), kept.Nodup →
    |(kept.map fun x => coefficient kernelV x * ((w.get x).toNat : Int)).sum| ≤ 1020 ∧
    |(kept.map fun x => coefficient kernelH x * ((w.get x).toNat : Int)).sum| ≤ 1020) ∧
  (∀ w : Win Byte, -1020 ≤ sumV w ∧ sumV w ≤ 1020 ∧ -1020 ≤ sumH w ∧ sumH w ≤ 1020) ∧
  (∀ d e f : Byte, sumV ⟨0#8, 0#8, 0#8, d, e, f, 255#8, 255#8, 255#8⟩ = 1020 ∧
    sumV ⟨255#8, 255#8, 255#8, d, e, f, 0#8, 0#8, 0#8⟩ = -1020 ∧
    sumH ⟨0#8, d, 255#8, 0#8, e, 255#8, 0#8, f, 255#8⟩ = 1020 ∧
    sumH ⟨255#8, d, 0#8, 255#8, e, 0#8, 255#8, f, 0#8⟩ = -1020)

/-- 40 R116: nine equal samples give both sums 0 and the output 0, under either detector's arithmetic. -/
def Obligations.UniformNeighbourhoodIsZero : Prop :=
  ∀ v : Byte, sumV (Win.ofFn fun _ => v) = 0 ∧ sumH (Win.ofFn fun _ => v) = 0 ∧
    spx (Win.ofFn fun _ => v) = 0#8 ∧
    ∀ j : Fin 8, (narrowLanes (chunkResult
      (verticalSum (widened (Win.ofFn fun _ => Oct.const v)))
      (horizontalSum (widened (Win.ofFn fun _ => Oct.const v))))).get j = 0#8

/-- 41 R133: for every integer s, abs(tdiv(s, 8)) = floor(abs(s) / 8); and the examples. -/
def Obligations.TruncatingDivision : Prop :=
  (∀ n : Int, absInt (tdiv n 8) = ((n.natAbs / 8 : Nat) : Int)) ∧
  tdiv 7 8 = 0 ∧ tdiv 8 8 = 1 ∧ tdiv (-7) 8 = 0 ∧ tdiv (-8) 8 = -1 ∧ tdiv (-9) 8 = -1 ∧
  tdiv 1020 8 = 127 ∧ tdiv (-1020) 8 = -127

/-- 41 R131, R132, R134, R135: the accumulators hold the exact sums; the value before narrowing lies in 0..191, so
narrowing never changes it; 191 is reached. -/
def Obligations.PixelNeverWraps : Prop :=
  (∀ w : Win Byte,
    (s32 (sumV w)).toInt = sumV w ∧ (s32 (sumH w)).toInt = sumH w ∧
    0 ≤ absInt (tdiv (sumV w) 8) + absInt (tdiv (sumH w) 8) ∧
    absInt (tdiv (sumV w) 8) + absInt (tdiv (sumH w) 8) ≤ 191 ∧
    ((spx w).toNat : Int) = absInt (tdiv (sumV w) 8) + absInt (tdiv (sumH w) 8)) ∧
  ∀ e : Byte, (spx ⟨0#8, 0#8, 0#8, 0#8, e, 255#8, 3#8, 255#8, 255#8⟩).toNat = 191

/-! ### Acceptance of a DETECT command -/

/-- 41 R130: DETECT.S, accepted idle with depth 24, both dimensions at least 3, both windows in range and disjoint,
latches its operands, enters RUN_S at unit (0, 1, 1, 1) and reads BUSY; memory and every other register are
unchanged. (`openWindows`, which notes the windows that race from now on, is the model's own: log
entries 9 and 26.) -/
def Obligations.DetectSAccepted : Prop :=
  ∀ s : State, s.phase = .idle → s.bpp = 24#32 → LatchLegal ⟨s.width, s.height, s.inBase, s.outBase⟩ →
    ∃ t, exec .detectS s = .next t ∧ statusWord t = 0x00000001#32 ∧
      t = { openWindows s ⟨s.width, s.height, s.inBase, s.outBase⟩ with
        status := ⟨false, false, 0#4⟩
        faultAddr := 0#32
        phase := .runS
        lat := ⟨s.width, s.height, s.inBase, s.outBase⟩
        seq := ⟨0, 1, 1, 1⟩ }

/-- 43 R189: DETECT.V, accepted idle with depth 24, both dimensions at least 3, both windows in range and disjoint,
latches its operands, enters RUN_V at unit (0, 1, 1, min(8, W - 2)) and reads BUSY; memory and every other register
are unchanged. (`openWindows`, which notes the windows that race from now on, is the model's own: log
entries 9 and 26.) -/
def Obligations.DetectVAccepted : Prop :=
  ∀ s : State, s.phase = .idle → s.bpp = 24#32 → LatchLegal ⟨s.width, s.height, s.inBase, s.outBase⟩ →
    ∃ t, exec .detectV s = .next t ∧ statusWord t = 0x00000001#32 ∧
      t = { openWindows s ⟨s.width, s.height, s.inBase, s.outBase⟩ with
        status := ⟨false, false, 0#4⟩
        faultAddr := 0#32
        phase := .runV
        lat := ⟨s.width, s.height, s.inBase, s.outBase⟩
        seq := ⟨0, 1, 1, min 8 (s.width.toNat - 2)⟩ }

/-- 60 R213 to R216, R218: the checks of a DETECT command in their order; the first that fails gives the code, the
block stays idle, and only STATUS and FAULT_ADDR change. -/
def Obligations.AcceptanceChecksInOrder : Prop :=
  ∀ (s : State) (i : Instr), i = .detectS ∨ i = .detectV → s.phase = .idle →
    (s.bpp ≠ 24#32 →
      exec i s = .next { s with status := ⟨true, true, 2#4⟩, faultAddr := 0#32 }) ∧
    (s.bpp = 24#32 → s.width.toNat < 3 ∨ s.height.toNat < 3 →
      exec i s = .next { s with status := ⟨true, true, 3#4⟩, faultAddr := 0#32 }) ∧
    (s.bpp = 24#32 → 3 ≤ s.width.toNat → 3 ≤ s.height.toNat →
      2 ^ 32 < s.inBase.toNat + 3 * s.width.toNat * s.height.toNat ∨
        2 ^ 32 < s.outBase.toNat + 3 * s.width.toNat * s.height.toNat →
      exec i s = .next { s with status := ⟨true, true, 4#4⟩, faultAddr := 0#32 }) ∧
    (s.bpp = 24#32 → 3 ≤ s.width.toNat → 3 ≤ s.height.toNat →
      s.inBase.toNat + 3 * s.width.toNat * s.height.toNat ≤ 2 ^ 32 →
      s.outBase.toNat + 3 * s.width.toNat * s.height.toNat ≤ 2 ^ 32 →
      s.inBase.toNat < s.outBase.toNat + 3 * s.width.toNat * s.height.toNat →
      s.outBase.toNat < s.inBase.toNat + 3 * s.width.toNat * s.height.toNat →
      exec i s = .next { s with status := ⟨true, true, 5#4⟩, faultAddr := 0#32 })

/-- 60 R219: `raise Error(code, addr)` makes the block idle, STATUS reads 0x00000006 | (code << 8), FAULT_ADDR holds
the address of a BUS_ERROR and 0 otherwise, and nothing else changes. -/
def Obligations.ErrorEntry : Prop :=
  ∀ (s : State) (e : ErrCode) (addr : Word),
    raiseError s e addr = { s with
      phase := .idle
      status := ⟨true, true, e.number⟩
      faultAddr := if e = .busError then addr else 0#32 } ∧
    statusWord (raiseError s e addr) = 0x00000006#32 ||| (e.number.zeroExtend 32 <<< 8)

/-! ### One unit -/

/-- 41 R136: one scalar unit of an undisturbed run reads its nine samples and writes the pixel function of them to
its one output byte; every other byte, lat, and the operand and LANE registers are unchanged. -/
def Obligations.ScalarUnitWritesPixel : Prop :=
  ∀ s : State, Invariant s → s.phase = .runS → s.inputs = [] → RaceFree s → Backed s s.lat →
    ∃ t, step s = .next t ∧
      Memory.read t.mem (outByte s.lat s.seq.p s.seq.r s.seq.c) =
        spx (neighbourhood s.lat s.mem s.seq.p s.seq.r s.seq.c) ∧
      (∀ a, a ≠ outByte s.lat s.seq.p s.seq.r s.seq.c →
        Memory.read t.mem a = Memory.read s.mem a) ∧
      t.lat = s.lat ∧ SameRegisters s t

/-- 41 R136, 10 R40: an undisturbed scalar unit leaves SUMV and SUMH of its pixel in SSV and SSH, exactly, and no
lane register changes. -/
def Obligations.AccumulatorsHoldSums : Prop :=
  ∀ s : State, Invariant s → s.phase = .runS → s.inputs = [] → RaceFree s → Backed s s.lat →
    ∃ t, step s = .next t ∧
      t.ssv.toInt = sumV (neighbourhood s.lat s.mem s.seq.p s.seq.r s.seq.c) ∧
      t.ssh.toInt = sumH (neighbourhood s.lat s.mem s.seq.p s.seq.r s.seq.c) ∧
      t.vop = s.vop ∧ t.sv = s.sv ∧ t.sh = s.sh ∧ t.vr = s.vr

/-- 41 R137, 70 R254: after a scalar unit the sequencer moves to the next column, else the next row, else the next
plane, else the run finishes with STATUS = 0x00000002 (in the last unit's step: log entry 12). -/
def Obligations.ScalarUnitAdvances : Prop :=
  ∀ s : State, Invariant s → s.phase = .runS → s.inputs = [] → Backed s s.lat →
    ∃ t, step s = .next t ∧
      if s.seq.c < s.lat.w.toNat - 2 then
        t.phase = .runS ∧ t.seq = ⟨s.seq.p, s.seq.r, s.seq.c + 1, 1⟩ ∧ statusWord t = 0x00000001#32
      else if s.seq.r < s.lat.h.toNat - 2 then
        t.phase = .runS ∧ t.seq = ⟨s.seq.p, s.seq.r + 1, 1, 1⟩ ∧ statusWord t = 0x00000001#32
      else if s.seq.p < 2 then
        t.phase = .runS ∧ t.seq = ⟨s.seq.p + 1, 1, 1, 1⟩ ∧ statusWord t = 0x00000001#32
      else t.phase = .idle ∧ statusWord t = 0x00000002#32

/-- 43 R177 to R181, R187: one chunk of an undisturbed run writes, for each active lane j, the pixel function of the
samples around column c + j; every other byte, lat, and the operand and LANE registers are unchanged. -/
def Obligations.VectorUnitWritesChunk : Prop :=
  ∀ s : State, Invariant s → s.phase = .runV → s.inputs = [] → RaceFree s → Backed s s.lat →
    ∃ t, step s = .next t ∧
      (∀ j, j < s.seq.n → Memory.read t.mem (outByte s.lat s.seq.p s.seq.r (s.seq.c + j)) =
        spx (neighbourhood s.lat s.mem s.seq.p s.seq.r (s.seq.c + j))) ∧
      (∀ a, (∀ j, j < s.seq.n → a ≠ outByte s.lat s.seq.p s.seq.r (s.seq.c + j)) →
        Memory.read t.mem a = Memory.read s.mem a) ∧
      t.lat = s.lat ∧ SameRegisters s t

/-- 43 R177 to R180, R182, 10 R39: an undisturbed chunk leaves, in each active lane j, the widened samples around
column c + j in VOP, their exact kernel sums in SV and SH and the widened output byte in VR; an inactive lane holds 0
throughout, and the scalar accumulators do not change. -/
def Obligations.LaneRegistersHoldChunk : Prop :=
  ∀ s : State, Invariant s → s.phase = .runV → s.inputs = [] → RaceFree s → Backed s s.lat →
    ∃ t, step s = .next t ∧ t.ssv = s.ssv ∧ t.ssh = s.ssh ∧
      (∀ j : Fin 8, j.val < s.seq.n →
        (∀ x, (t.vop.get x).get j =
          ((neighbourhood s.lat s.mem s.seq.p s.seq.r (s.seq.c + j.val)).get x).zeroExtend 16) ∧
        (t.sv.get j).toInt = sumV (neighbourhood s.lat s.mem s.seq.p s.seq.r (s.seq.c + j.val)) ∧
        (t.sh.get j).toInt = sumH (neighbourhood s.lat s.mem s.seq.p s.seq.r (s.seq.c + j.val)) ∧
        t.vr.get j =
          (spx (neighbourhood s.lat s.mem s.seq.p s.seq.r (s.seq.c + j.val))).zeroExtend 16) ∧
      ∀ j : Fin 8, s.seq.n ≤ j.val →
        (∀ x, (t.vop.get x).get j = 0#16) ∧ t.sv.get j = 0#16 ∧ t.sh.get j = 0#16 ∧ t.vr.get j = 0#16

/-- 43 R188, 70 R254: after a chunk the sequencer moves 8 columns on, pulled back to W - 9 where the chunk would pass
the last interior column, else to the next row, else the next plane, else the run finishes (in the last unit's step:
log entry 12). -/
def Obligations.VectorUnitAdvances : Prop :=
  ∀ s : State, Invariant s → s.phase = .runV → s.inputs = [] → Backed s s.lat →
    ∃ t, step s = .next t ∧
      if s.seq.n = 8 ∧ s.seq.c + 8 ≤ s.lat.w.toNat - 2 then
        t.phase = .runV ∧ statusWord t = 0x00000001#32 ∧
          t.seq = ⟨s.seq.p, s.seq.r,
            if s.seq.c + 8 + 7 > s.lat.w.toNat - 2 then s.lat.w.toNat - 9 else s.seq.c + 8, 8⟩
      else if s.seq.r < s.lat.h.toNat - 2 then
        t.phase = .runV ∧ statusWord t = 0x00000001#32 ∧
          t.seq = ⟨s.seq.p, s.seq.r + 1, 1, min 8 (s.lat.w.toNat - 2)⟩
      else if s.seq.p < 2 then
        t.phase = .runV ∧ statusWord t = 0x00000001#32 ∧
          t.seq = ⟨s.seq.p + 1, 1, 1, min 8 (s.lat.w.toNat - 2)⟩
      else t.phase = .idle ∧ statusWord t = 0x00000002#32

/-- 43 R183, R188: CH(W) starts with (1, min(8, W - 2)), each next entry is where the advance goes, the last one is
where it leaves the row, there are ceil((W - 2) / 8) of them, and every interior column is in some chunk. -/
def Obligations.ChunkListIsVisited : Prop :=
  ∀ w : Nat, 3 ≤ w →
    (chunkList w).head? = some (1, min 8 (w - 2)) ∧
    (chunkList w).length = (w - 2 + 7) / 8 ∧
    (∀ k c n c' n', (chunkList w)[k]? = some (c, n) → (chunkList w)[k + 1]? = some (c', n') →
      n = 8 ∧ c + 10 ≤ w ∧ c' = nextColumn w c ∧ n' = 8) ∧
    (∀ c n, (chunkList w).getLast? = some (c, n) → ¬ (n = 8 ∧ c + 10 ≤ w) ∧ c + n + 1 = w) ∧
    ∀ col, 1 ≤ col → col + 2 ≤ w → ∃ c n, (c, n) ∈ chunkList w ∧ c ≤ col ∧ col < c + n

/-- 60 R217, R219, R220: in an undisturbed run, the first failing read of a unit, in the unit's order, ends the
command: the unit writes nothing, STATUS = 0x00000606, FAULT_ADDR is that read's address. -/
def Obligations.ReadFailureEndsRun : Prop :=
  ∀ (s : State) (a : Int), Invariant s → s.inputs = [] → RaceFree s →
    s.phase = .runS ∧ firstFailing s (scalarReads s) = some a ∨
      s.phase = .runV ∧ firstFailing s (vectorReads s) = some a →
    ∃ t, step s = .next t ∧ t.phase = .idle ∧ statusWord t = 0x00000606#32 ∧
      (t.faultAddr.toNat : Int) = a ∧ t.mem = s.mem ∧ SameRegisters s t

/-- 60 R217, R219, R220: in an undisturbed run whose unit's reads succeed, the first failing write ends the command:
the writes at lower columns are done, no other byte changes, STATUS = 0x00000606, FAULT_ADDR is that write's
address. -/
def Obligations.WriteFailureEndsRun : Prop :=
  ∀ (s : State) (k : Nat), Invariant s → s.phase ≠ .idle → s.inputs = [] → RaceFree s → k < s.seq.n →
    (∀ x j, j < s.seq.n → memOK s (nbrAddr s x + j) = true) →
    (∀ j, j < k → memOK s (outAddr s.lat s.seq.p s.seq.r ((s.seq.c + j : Nat) : Int)) = true) →
    memOK s (outAddr s.lat s.seq.p s.seq.r ((s.seq.c + k : Nat) : Int)) = false →
    ∃ t, step s = .next t ∧ t.phase = .idle ∧ statusWord t = 0x00000606#32 ∧
      t.faultAddr.toNat = outByte s.lat s.seq.p s.seq.r (s.seq.c + k) ∧
      (∀ j, j < k → Memory.read t.mem (outByte s.lat s.seq.p s.seq.r (s.seq.c + j)) =
        spx (neighbourhood s.lat s.mem s.seq.p s.seq.r (s.seq.c + j))) ∧
      (∀ a, (∀ j, j < k → a ≠ outByte s.lat s.seq.p s.seq.r (s.seq.c + j)) →
        Memory.read t.mem a = Memory.read s.mem a) ∧
      SameRegisters s t

/-! ### Whole-machine rules -/

/-- The invariant holds right after reset (70 R241, R242). -/
def Obligations.ResetMeetsInvariant : Prop := Invariant State.reset

/-- Every step keeps the invariant: memory canonical and inside the address space (20 R60), STATUS and FAULT_ADDR
legal (10 R25, R26), a running command's operands legal (60 R218), the sequencer in its ranges and on a chunk of
CH(W) (10 R38, 43 R183), races inside windows not handed over, those of a running command among them (20 R76, 70
R248). -/
def Obligations.StepKeepsInvariant : Prop :=
  ∀ s t : State, Invariant s → step s = .next t → Invariant t

/-- 10 R25: STATUS reads 0x00000000, 0x00000001, 0x00000002, or 0x00000006 | (code << 8) for a code in 1..6, and no
other value; BUSY is 1 exactly when a DETECT runs. -/
def Obligations.StatusReadsLegal : Prop :=
  (∀ s : State, Invariant s → statusWord s ∈ [0x00000000#32, 0x00000001#32, 0x00000002#32, 0x00000106#32,
    0x00000206#32, 0x00000306#32, 0x00000406#32, 0x00000506#32, 0x00000606#32]) ∧
  ∀ s : State, (statusWord s).getLsbD 0 = true ↔ s.phase = .runS ∨ s.phase = .runV

/-- The block's own turn: with nothing waiting a step is the turn, and a waiting turn is the same turn taken off the
waiting operations, whatever waits behind it. It never stops, and changes no operand or LANE register, no latched
operand and nothing outside the block but memory, and no window is handed over by it (10 R35, R37, R38, 70 R248, 95
T-R7; log entry 15). -/
def Obligations.BlockTurnFrame : Prop :=
  (∀ s : State, s.inputs = [] → ∃ t, step s = .next t ∧ t = blockStep s ∧ SameRegisters s t ∧ t.lat = s.lat ∧
    t.memMap = s.memMap ∧ t.inputs = [] ∧ t.busData = s.busData ∧ t.unread = s.unread ∧
    t.racedIn = s.racedIn ∧ t.racedOut = s.racedOut) ∧
  ∀ (s : State) (rest : List Input), s.inputs = .blockTurn :: rest →
    step s = .next (blockStep { s with inputs := rest }) ∧
    blockStep { s with inputs := rest } = { blockStep { s with inputs := [] } with inputs := rest }

/-- 20 R71, 40 R118, 43 R191: whatever happens in it, a block's turn changes no byte of memory but interior bytes of
the output window. -/
def Obligations.OnlyInteriorBytesChange : Prop :=
  ∀ s t : State, Invariant s → s.inputs = [] → step s = .next t →
    ∀ a, Memory.read t.mem a ≠ Memory.read s.mem a →
      s.phase ≠ .idle ∧ ∃ p r c, Interior s.lat p r c ∧ a = outByte s.lat p r c

/-- 40 R110, 20 R71, 43 R192: what a block's turn does depends on no byte outside the current plane of the input
window: two states that differ only there take steps whose results differ only in memory (every register and every
other part of the state is the same), and there each byte is the same in both, or is in each what it was. -/
def Obligations.OtherPlanesDoNotMatter : Prop :=
  ∀ (s t t' : State) (m : Memory), Invariant s → Memory.wf m = true → s.inputs = [] →
    PlaneAgrees s.lat s.seq.p s.mem m →
    step s = .next t → step { s with mem := m } = .next t' →
    t' = { t with mem := t'.mem } ∧
      ∀ a, Memory.read t.mem a = Memory.read t'.mem a ∨
        Memory.read t.mem a = Memory.read s.mem a ∧ Memory.read t'.mem a = Memory.read m a

/-- A step stops only on a host access to `Mem` where no memory responds (a fault), or on a register access that is
not an aligned 32-bit one (a refusal, 20 R62): no command and no block's turn stops (log entries 10 and 11). -/
def Obligations.OnlyHostAccessesStop : Prop :=
  (∀ (s : State) (f : Fault), step s = .fault f →
    ∃ addr, f = .hostNoMemory addr ∧ memOK s (addr.toNat : Int) = false ∧
      ∃ rest, s.inputs = .memRead addr :: rest ∨ ∃ b, s.inputs = .memWrite addr b :: rest) ∧
  ∀ (s : State) (r : Refusal), step s = .refused r →
    ∃ width off, r = .badRegisterAccess width off ∧ (width ≠ .b32 ∨ off.toNat % 4 ≠ 0) ∧
      ∃ rest, s.inputs = .regRead width off :: rest ∨ ∃ v, s.inputs = .regWrite width off v :: rest

/-! ### Whole runs -/

/-- 41 R130, R137, 20 R82, 40 R118, 70 R252, R254: from a ready state, the CMD write of DETECT.S and exactly
3*(W-2)*(H-2) block steps end with STATUS = 0x00000002, every interior output byte the pixel function of the input,
everything else as it was; before that STATUS reads busy. (The CMD write is the model's waiting input, log entry 2;
finishing is in the last unit's step, log entry 12.) -/
def Obligations.ScalarRunCompletes : Prop :=
  ∀ s : State, Ready s →
    (∃ t, Sys2Proof.core.run (1 + 3 * (s.width.toNat - 2) * (s.height.toNat - 2))
        (s.withFetchWord 32 0x00000001) = .next t ∧ RunResult s t) ∧
    ∀ k, 1 ≤ k → k < 1 + 3 * (s.width.toNat - 2) * (s.height.toNat - 2) →
      ∃ t : State, Sys2Proof.core.run k (s.withFetchWord 32 0x00000001) = .next t ∧
        statusWord t = 0x00000001#32

/-- 43 R188, R189, 20 R82, 40 R118, 70 R252, R254: from a ready state, the CMD write of DETECT.V and exactly
3*(H-2)*ceil((W-2)/8) block steps end with STATUS = 0x00000002, every interior output byte the pixel function of the
input, everything else as it was; before that STATUS reads busy. (The CMD write is the model's waiting input, log entry
2; finishing is in the last unit's step, log entry 12.) -/
def Obligations.VectorRunCompletes : Prop :=
  ∀ s : State, Ready s →
    (∃ t, Sys2Proof.core.run (1 + 3 * (s.height.toNat - 2) * ((s.width.toNat - 2 + 7) / 8))
        (s.withFetchWord 32 0x00000011) = .next t ∧ RunResult s t) ∧
    ∀ k, 1 ≤ k → k < 1 + 3 * (s.height.toNat - 2) * ((s.width.toNat - 2 + 7) / 8) →
      ∃ t : State, Sys2Proof.core.run k (s.withFetchWord 32 0x00000011) = .next t ∧
        statusWord t = 0x00000001#32

/-- 43 R190, 00 R7: for every input that passes the acceptance checks, with memory behind both windows, the two
detectors leave the same memory, byte for byte, and the same STATUS. -/
def Obligations.DetectorsAgree : Prop :=
  ∀ s : State, Ready s → ∃ t u : State,
    Sys2Proof.core.run (1 + 3 * (s.width.toNat - 2) * (s.height.toNat - 2))
      (s.withFetchWord 32 0x00000001) = .next t ∧
    Sys2Proof.core.run (1 + 3 * (s.height.toNat - 2) * ((s.width.toNat - 2 + 7) / 8))
      (s.withFetchWord 32 0x00000011) = .next u ∧
    t.mem = u.mem ∧ statusWord t = statusWord u

/-! ### The host, memory and reset -/

/-- 10 R27 to R33, R35: a read-write register written at any time, busy or idle, reads back unchanged; no other
register's reading, and no byte of memory, changes. -/
def Obligations.RegisterReadsBack : Prop :=
  ∀ (s : State) (r : Reg) (v : Word) (rest : List Input), r ≠ .cmd → r ≠ .status → r ≠ .faultAddr →
    s.inputs = .regWrite .b32 (regOffset r) v :: .regRead .b32 (regOffset r) :: rest →
    ∃ t : State, Sys2Proof.core.run 2 s = .next t ∧ t.busData = v ∧ t.inputs = rest ∧ t.mem = s.mem ∧
      t.phase = s.phase ∧ ∀ r', r' ≠ r → readReg t r' = readReg s r'

/-- 10 R23 to R26, R34: writes to STATUS, FAULT_ADDR and the unmapped offsets change nothing; CMD and the unmapped
offsets read 0; a read of FAULT_ADDR, busy or idle, returns the failing address it holds and changes nothing. -/
def Obligations.ReadOnlyAndUnmapped : Prop :=
  ∀ (s : State) (rest : List Input),
    (∀ off v, off = 0x04#8 ∨ off = 0x08#8 ∨ (0x38 ≤ off.toNat ∧ off.toNat % 4 = 0) →
      s.inputs = .regWrite .b32 off v :: rest → step s = .next { s with inputs := rest }) ∧
    (∀ off : BitVec 8, off = 0x00#8 ∨ (0x38 ≤ off.toNat ∧ off.toNat % 4 = 0) →
      s.inputs = .regRead .b32 off :: rest →
      step s = .next { s with inputs := rest, busData := 0x00000000#32 }) ∧
    (s.inputs = .regRead .b32 0x08#8 :: rest → step s = .next { s with inputs := rest, busData := s.faultAddr })

/-- 20 R62: a host access to the register window that is not 32 bits wide at a multiple of 4 is refused. -/
def Obligations.BadAccessRefused : Prop :=
  ∀ (s : State) (width : AccessWidth) (off : BitVec 8) (rest : List Input),
    width ≠ .b32 ∨ off.toNat % 4 ≠ 0 →
    (∀ v, s.inputs = .regWrite width off v :: rest →
      step s = .refused (.badRegisterAccess width off)) ∧
    (s.inputs = .regRead width off :: rest → step s = .refused (.badRegisterAccess width off))

/-- 70 R249, 10 R35: a write to a read-write register while a command runs changes the register and not the run:
write then unit and unit then write end in the same state. -/
def Obligations.OperandWriteDuringRun : Prop :=
  ∀ (s : State) (r : Reg) (v : Word) (rest : List Input), s.phase ≠ .idle →
    r ≠ .cmd → r ≠ .status → r ≠ .faultAddr →
    ∃ t : State,
      Sys2Proof.core.run 2
        { s with inputs := .regWrite .b32 (regOffset r) v :: .blockTurn :: rest } = .next t ∧
      Sys2Proof.core.run 2
        { s with inputs := .blockTurn :: .regWrite .b32 (regOffset r) v :: rest } = .next t

/-- The registers of the map have fourteen different host-bus addresses, wherever REG_BASE is (10 R23, 20 R61). -/
def Obligations.RegisterAddressesDistinct : Prop :=
  ∀ r r' : Reg, regBusAddr r = regBusAddr r' → r = r'

/-- 60 R230, 70 R245: an idle block with nothing waiting changes nothing, memory included. -/
def Obligations.IdleBlockWaits : Prop :=
  ∀ s : State, s.phase = .idle → s.inputs = [] → step s = .next s

/-- 20 R69: memory returns the last byte written at an address, a write changes only its own byte, and the canonical
form is kept, so equal contents are equal data; so does a host write and read, busy or idle, of a byte that no window
not handed over holds (70 R248). -/
def Obligations.MemoryIsPlainRam : Prop :=
  (∀ (m : Memory) (a x : Nat) (b : Byte), Memory.wf m = true →
    Memory.read (Memory.write m a b) x = (if x = a then b else Memory.read m x) ∧
      Memory.wf (Memory.write m a b) = true) ∧
  ∀ (s : State) (addr : Word) (b : Byte) (rest : List Input), Memory.wf s.mem = true →
    racesIn s addr.toNat = false → racesOut s addr.toNat = false → memOK s (addr.toNat : Int) = true →
    s.inputs = .memWrite addr b :: .memRead addr :: rest →
    ∃ t : State, Sys2Proof.core.run 2 s = .next t ∧ t.busData = b.zeroExtend 32 ∧
      ∀ x, x ≠ addr.toNat → Memory.read t.mem x = Memory.read s.mem x

/-- 70 R240, R241: reset, whenever it arrives, leaves the block idle with every register of the map reading 0; of an
idle block, it changes no byte of memory (R243). -/
def Obligations.ResetClearsRegisters : Prop :=
  ∀ (s : State) (k : Nat) (rest : List Input), s.inputs = .reset k :: rest →
    ∃ t, step s = .next t ∧ t.phase = .idle ∧ (∀ r, readReg t r = 0x00000000#32) ∧ t.inputs = rest ∧
      (s.phase = .idle → t.mem = s.mem)

/-- 70 R244: reset in an undisturbed run: STATUS reads 0, the block is idle, and each byte of memory holds what it
held, or is a byte of the unit in progress and holds its detector value; with no write of that unit done, memory is
unchanged. (That the reset input carries how many writes are done is the model's choice, log entry 13.) -/
def Obligations.ResetCutsRun : Prop :=
  ∀ (s : State) (k : Nat) (rest : List Input), Invariant s → s.phase ≠ .idle → RaceFree s →
    s.inputs = .reset k :: rest →
    ∃ t, step s = .next t ∧ t.phase = .idle ∧ statusWord t = 0x00000000#32 ∧
      (k = 0 → t.mem = s.mem) ∧
      ∀ a, Memory.read t.mem a = Memory.read s.mem a ∨
        ∃ j, j < s.seq.n ∧ j < k ∧ a = outByte s.lat s.seq.p s.seq.r (s.seq.c + j) ∧
          Memory.read t.mem a = spx (neighbourhood s.lat s.mem s.seq.p s.seq.r (s.seq.c + j))

/-- 20 R76, 70 R248 (the model's form of a race, log entries 8, 9, 25 and 26): while the windows of a DETECT are not
handed over, busy or idle, a host read of its output window returns a free byte and a host read of its input window
memory; a host write to its output window leaves memory alone and marks that byte; a host write to its input window
stores, makes the block's reads of that byte free and marks the output byte of every pixel whose neighbourhood holds it.
(What a mark comes to is RacedOutputIsFree.) -/
def Obligations.RacingAccesses : Prop :=
  ∀ (s : State) (l : Latch) (addr : Word) (rest : List Input), Invariant s → l ∈ s.unread →
    memOK s (addr.toNat : Int) = true →
    (inOutputWindow l addr.toNat = true → s.inputs = .memRead addr :: rest →
      ∃ t d, step s = .next t ∧ t.busData = (Config.freeByte d 0).zeroExtend 32 ∧ t.mem = s.mem) ∧
    (inInputWindow l addr.toNat = true → racesOut s addr.toNat = false → s.inputs = .memRead addr :: rest →
      step s = .next { s with
        inputs := rest
        busData := (Memory.read s.mem addr.toNat).zeroExtend 32 }) ∧
    (∀ b, inOutputWindow l addr.toNat = true → s.inputs = .memWrite addr b :: rest →
      ∃ t, step s = .next t ∧ (racesIn s addr.toNat = false → t.mem = s.mem) ∧
        addr.toNat ∈ t.racedOut) ∧
    (∀ b, inInputWindow l addr.toNat = true → s.inputs = .memWrite addr b :: rest →
      ∃ t, step s = .next t ∧ Memory.read t.mem addr.toNat = b ∧
        (∀ k, blockRead t k (addr.toNat : Int) = Config.freeByte t.draws k) ∧
        ∀ p r c x, Interior l p r c →
          inAddr l p (r + rowOffset x) (c + colOffset x) = (addr.toNat : Int) →
          outByte l p r c ∈ t.racedOut)

/-- 20 R76, 70 R248 (the model's form of a race, log entries 8, 9 and 26): a marked byte is a free byte to the block,
and at the STATUS read that shows BUSY = 0 every marked byte becomes a free byte, no other byte changes, and the windows
are handed over: nothing races any more. A STATUS read that shows BUSY = 1 hands nothing over. -/
def Obligations.RacedOutputIsFree : Prop :=
  (∀ (s : State) (a k : Nat), a ∈ s.racedOut → blockRead s k (a : Int) = Config.freeByte s.draws k) ∧
  ∀ (s : State) (rest : List Input), Invariant s → s.inputs = .regRead .b32 0x04#8 :: rest →
    (s.phase ≠ .idle → step s = .next { s with inputs := rest, busData := statusWord s }) ∧
    (s.phase = .idle → ∃ t, step s = .next t ∧ t.busData = statusWord s ∧ t.inputs = rest ∧
      t.unread = [] ∧ RaceFree t ∧
      (∀ a ∈ s.racedOut, ∃ d k, Memory.read t.mem a = Config.freeByte d k) ∧
      ∀ a, a ∉ s.racedOut → Memory.read t.mem a = Memory.read s.mem a)

/-- 30 R100 (log entry 14): `wait` reads STATUS; while BUSY reads 1 it stays waiting and the block takes its turn,
and once BUSY reads 0 the windows are handed over (70 R248) and the host goes on. -/
def Obligations.WaitPollsUntilIdle : Prop :=
  ∀ (s : State) (rest : List Input), s.inputs = .wait :: rest →
    (s.phase = .idle →
      step s = .next { handOver s with inputs := rest, busData := statusWord s }) ∧
    (s.phase ≠ .idle →
      step s = .next (blockStep { s with busData := statusWord s }) ∧
        (statusWord s).getLsbD 0 = true)
end

