-- ==== Sys2Proof/Laws/Decode.lean ====
section
/-! SUPPORT. The field layout is lossless (30 R91), and what the decoder does with fields (30 R92, R93). -/

namespace Sys2Proof

/-- Packing fields and reading them back gives the fields (30 R91). -/
@[simp] theorem fieldsOf_wordOf (f : CommandFields) : fieldsOf (wordOf f) = f := by
  obtain ⟨opc, v, rsv⟩ := f
  simp only [fieldsOf, wordOf, CommandFields.mk.injEq]
  refine ⟨?_, ?_, ?_⟩ <;>
    · apply BitVec.eq_of_getLsbD_eq
      intro k hk
      simp only [BitVec.getLsbD_extractLsb', BitVec.getLsbD_append, hk]
      interval_cases k <;> simp

/-- Reading the fields of a word and packing them gives the word: RSV, V and OPC cover all 32 bits (30 R91). -/
@[simp] theorem wordOf_fieldsOf (w : Word) : wordOf (fieldsOf w) = w := by
  apply BitVec.eq_of_getLsbD_eq
  intro k hk
  simp only [fieldsOf, wordOf, BitVec.getLsbD_append, BitVec.getLsbD_extractLsb']
  interval_cases k <;> simp

/-- The fields of a word name it. -/
theorem eq_wordOf_iff {w : Word} {f : CommandFields} : w = wordOf f ↔ fieldsOf w = f :=
  ⟨fun h => by rw [h, fieldsOf_wordOf], fun h => by rw [← h, wordOf_fieldsOf]⟩

/-- The decoder answers a command on exactly that command's fields (30 R92, R93, R96). -/
theorem decodeFields_eq_command (f : CommandFields) (i : Instr) :
    decodeFields f = .command i ↔ f = i.fields := by
  obtain ⟨opc, v, rsv⟩ := f
  by_cases h : rsv = 0#27
  · subst h
    revert opc v
    cases i <;> decide
  · have hne : (⟨opc, v, rsv⟩ : CommandFields) ≠ i.fields := by
      cases i <;> simp [Instr.fields, h]
    simp [decodeFields, CommandFields.reservedClear, h, hne]

end Sys2Proof
end

