-- ==== Sys2Proof/Laws/Containers.lean ====
section
/-! SUPPORT. The two containers: reading an element of a built vector, and equality element by element. -/

namespace Sys2Proof

@[simp] theorem Oct.get_ofFn {α : Type} (f : Fin 8 → α) (j : Fin 8) : (Oct.ofFn f).get j = f j := by
  fin_cases j <;> rfl

@[simp] theorem Oct.get_const {α : Type} (x : α) (j : Fin 8) : (Oct.const x).get j = x :=
  Oct.get_ofFn _ j

@[simp] theorem Oct.get_map {α β : Type} (f : α → β) (v : Oct α) (j : Fin 8) :
    (v.map f).get j = f (v.get j) :=
  Oct.get_ofFn _ j

@[simp] theorem Oct.get_zip {α β γ : Type} (f : α → β → γ) (v : Oct α) (w : Oct β) (j : Fin 8) :
    (v.zip f w).get j = f (v.get j) (w.get j) :=
  Oct.get_ofFn _ j

/-- Two vectors with the same elements are equal. -/
theorem Oct.ext_get {α : Type} {v w : Oct α} (h : ∀ j, v.get j = w.get j) : v = w := by
  cases v; cases w
  simpa [Oct.get] using ⟨h 0, h 1, h 2, h 3, h 4, h 5, h 6, h 7⟩

@[simp] theorem Win.get_ofFn {α : Type} (f : Nbr → α) (x : Nbr) : (Win.ofFn f).get x = f x := by
  cases x <;> rfl

@[simp] theorem Win.get_set {α : Type} (w : Win α) (x y : Nbr) (v : α) :
    (w.set x v).get y = if y = x then v else w.get y :=
  Win.get_ofFn _ y

/-- Two windows with the same entries are equal. -/
theorem Win.ext_get {α : Type} {v w : Win α} (h : ∀ x, v.get x = w.get x) : v = w := by
  cases v; cases w
  simpa [Win.get] using ⟨h .a, h .b, h .c, h .d, h .e, h .f, h .g, h .h, h .i⟩

namespace Machine

/-- Every neighbour is in the row-major list. -/
@[simp] theorem mem_allNbrs (x : Nbr) : x ∈ allNbrs := by
  cases x <;> decide

/-- Every lane is in the ascending list. -/
@[simp] theorem mem_allLanes (j : Fin 8) : j ∈ allLanes := by
  fin_cases j <;> decide

/-- The active lanes are those below n (43 R185). -/
@[simp] theorem mem_activeLanes (n : Nat) (j : Fin 8) : j ∈ activeLanes n ↔ j.val < n := by
  simp [activeLanes]

/-- With the number of lanes in range, the active lanes are exactly that many. -/
theorem activeLanes_length {n : Nat} (h : n ≤ 8) : (activeLanes n).length = n := by
  interval_cases n <;> rfl

/-- The active lanes are listed once each. -/
theorem activeLanes_nodup (n : Nat) : (activeLanes n).Nodup :=
  List.Nodup.filter _ (by decide)

end Machine
end Sys2Proof
end

