-- ==== Sys2Proof/Laws/Memory.lean ====
section
/-! SUPPORT. The laws of memory: a read after a write, and the canonical form every operation keeps (20 R69). -/

namespace Sys2Proof.Machine

/-- A canonical memory with first cell `(k, v)`: the value is listed for a reason, every later address is higher,
and the rest is canonical. -/
theorem wf_cons {k : Nat} {v : Byte} {t : Memory} :
    Memory.wf ((k, v) :: t) = true ↔
      v ≠ unlistedByte ∧ (∀ cell ∈ t, k < cell.1) ∧ Memory.wf t = true := by
  simp [Memory.wf, and_assoc]

/-- An address below every listed one reads as unlisted. -/
theorem read_of_lt {m : Memory} {a : Nat} (h : ∀ cell ∈ m, a < cell.1) :
    Memory.read m a = unlistedByte := by
  induction m with
  | nil => rfl
  | cons c t ih =>
    have hc := h c (by simp)
    rw [Memory.read, if_neg (by omega)]
    exact ih fun x hx => h x (by simp [hx])

/-- Every address a write leaves listed was listed, or is the one written. -/
theorem mem_write {m : Memory} {a : Nat} {b : Byte} {cell : Host.Cell}
    (h : cell ∈ Memory.write m a b) : cell ∈ m ∨ cell = (a, b) := by
  induction m with
  | nil =>
    unfold Memory.write at h
    split at h <;> simp_all
  | cons c t ih =>
    obtain ⟨k, v⟩ := c
    unfold Memory.write at h
    split at h
    · split at h
      · exact Or.inl h
      · exact (List.mem_cons.mp h).symm
    · split at h
      · split at h
        · exact Or.inl (List.mem_cons_of_mem _ h)
        · rcases List.mem_cons.mp h with h | h
          · exact Or.inr h
          · exact Or.inl (List.mem_cons_of_mem _ h)
      · rcases List.mem_cons.mp h with h | h
        · exact Or.inl (by simp [h])
        · rcases ih h with h | h <;> simp [h]

/-- A write keeps the canonical form. -/
theorem write_wf {m : Memory} (h : Memory.wf m = true) (a : Nat) (b : Byte) :
    Memory.wf (Memory.write m a b) = true := by
  induction m with
  | nil =>
    unfold Memory.write
    split
    · rfl
    · rename_i hb; simp [Memory.wf, hb]
  | cons c t ih =>
    obtain ⟨k, v⟩ := c
    obtain ⟨hv, hk, ht⟩ := wf_cons.mp h
    unfold Memory.write
    split
    · rename_i hak
      split
      · exact h
      · rename_i hb
        refine wf_cons.mpr ⟨hb, ?_, h⟩
        intro cell hc
        rcases List.mem_cons.mp hc with rfl | hc
        · exact hak
        · exact lt_trans hak (hk cell hc)
    · split
      · rename_i hak heq
        split
        · exact ht
        · rename_i hb
          exact wf_cons.mpr ⟨hb, fun cell hc => heq ▸ hk cell hc, ht⟩
      · rename_i hak hne
        refine wf_cons.mpr ⟨hv, ?_, ih ht⟩
        intro cell hc
        rcases mem_write hc with hc | rfl
        · exact hk cell hc
        · show k < a; omega

/-- A write to an address of the space keeps every listed address in the space. -/
theorem write_inSpace {m : Memory} (h : Memory.inSpace m = true) {a : Nat}
    (ha : a < Config.spaceSize) (b : Byte) : Memory.inSpace (Memory.write m a b) = true := by
  simp only [Memory.inSpace, List.all_eq_true, decide_eq_true_eq] at h ⊢
  intro cell hc
  rcases mem_write hc with hc | rfl
  · exact h cell hc
  · exact ha

/-- A read after a write (20 R69): the byte written at its own address, and what was there everywhere else. -/
theorem read_write {m : Memory} (h : Memory.wf m = true) (a : Nat) (b : Byte) (x : Nat) :
    Memory.read (Memory.write m a b) x = if x = a then b else Memory.read m x := by
  induction m with
  | nil =>
    unfold Memory.write
    split
    · rename_i hb; simp [Memory.read, hb]
    · simp [Memory.read, eq_comm]
  | cons c t ih =>
    obtain ⟨k, v⟩ := c
    obtain ⟨hv, hk, ht⟩ := wf_cons.mp h
    unfold Memory.write
    split
    · rename_i hak
      have hlow : Memory.read ((k, v) :: t) a = unlistedByte :=
        read_of_lt fun cell hc => by
          rcases List.mem_cons.mp hc with rfl | hc
          · exact hak
          · exact lt_trans hak (hk cell hc)
      split
      · rename_i hb
        by_cases hx : x = a
        · subst hx; rw [hlow, if_pos rfl, hb]
        · rw [if_neg hx]
      · by_cases hx : x = a
        · simp [hx, Memory.read]
        · rw [if_neg hx, Memory.read, if_neg (Ne.symm hx)]
    · split
      · rename_i hak heq
        subst heq
        have hlow : Memory.read t a = unlistedByte := read_of_lt hk
        split
        · rename_i hb
          by_cases hx : x = a
          · subst hx; rw [hlow, if_pos rfl, hb]
          · rw [if_neg hx]; simp [Memory.read, Ne.symm hx]
        · by_cases hx : x = a
          · simp [hx, Memory.read]
          · simp [hx, Memory.read, Ne.symm hx]
      · rename_i hak hne
        by_cases hx : k = x
        · subst hx; simp [Memory.read, Ne.symm hne]
        · simp only [Memory.read, if_neg hx]; exact ih ht

/-- Two canonical memories that read alike are equal: equal memories are equal data. -/
theorem eq_of_read_eq {m m' : Memory} (h : Memory.wf m = true) (h' : Memory.wf m' = true)
    (hr : ∀ a, Memory.read m a = Memory.read m' a) : m = m' := by
  induction m generalizing m' with
  | nil =>
    cases m' with
    | nil => rfl
    | cons c t =>
      have := hr c.1
      rw [show Memory.read (c :: t) c.1 = c.2 by simp [Memory.read]] at this
      exact absurd this.symm (wf_cons.mp h').1
  | cons c t ih =>
    obtain ⟨k, v⟩ := c
    obtain ⟨hv, hk, ht⟩ := wf_cons.mp h
    cases m' with
    | nil =>
      have := hr k
      simp only [Memory.read, if_pos] at this
      exact absurd this hv
    | cons c' t' =>
      obtain ⟨k', v'⟩ := c'
      obtain ⟨hv', hk', ht'⟩ := wf_cons.mp h'
      have hkk : k = k' := by
        rcases lt_trichotomy k k' with hlt | heq | hgt
        · have := hr k
          rw [read_of_lt (m := (k', v') :: t') (a := k) (by
            intro cell hc
            rcases List.mem_cons.mp hc with rfl | hc
            · exact hlt
            · exact lt_trans hlt (hk' cell hc))] at this
          simp only [Memory.read, if_pos] at this
          exact absurd this hv
        · exact heq
        · have := hr k'
          rw [read_of_lt (m := (k, v) :: t) (a := k') (by
            intro cell hc
            rcases List.mem_cons.mp hc with rfl | hc
            · exact hgt
            · exact lt_trans hgt (hk cell hc))] at this
          simp only [Memory.read, if_pos] at this
          exact absurd this.symm hv'
      subst hkk
      have hvv : v = v' := by simpa [Memory.read] using hr k
      subst hvv
      congr 1
      refine ih ht ht' fun a => ?_
      by_cases ha : k = a
      · subst ha; rw [read_of_lt hk, read_of_lt hk']
      · simpa [Memory.read, ha] using hr a

/-- Scrambling keeps the canonical form. -/
theorem scramble_wf (d : Nat) (l : List Nat) : ∀ (k : Nat) {m : Memory}, Memory.wf m = true →
    Memory.wf (scramble d k l m) = true := by
  induction l with
  | nil => intro k m h; exact h
  | cons a rest ih => intro k m h; exact ih (k + 1) (write_wf h a _)

/-- Scrambling addresses of the space keeps every listed address in the space. -/
theorem scramble_inSpace (d : Nat) (l : List Nat) : ∀ (k : Nat) {m : Memory},
    (∀ a ∈ l, a < Config.spaceSize) → Memory.inSpace m = true →
    Memory.inSpace (scramble d k l m) = true := by
  induction l with
  | nil => intro k m _ h; exact h
  | cons a rest ih =>
    intro k m hl h
    exact ih (k + 1) (fun x hx => hl x (by simp [hx])) (write_inSpace h (hl a (by simp)) _)

/-- Scrambling changes no byte but those listed. -/
theorem scramble_read_other (d : Nat) (l : List Nat) : ∀ (k : Nat) {m : Memory},
    Memory.wf m = true → ∀ x, x ∉ l → Memory.read (scramble d k l m) x = Memory.read m x := by
  induction l with
  | nil => intro k m _ x _; rfl
  | cons a rest ih =>
    intro k m h x hx
    rw [scramble, ih (k + 1) (write_wf h a _) x (by simp_all), read_write h, if_neg (by simp_all)]

/-- Scrambling leaves a free byte at each listed address. -/
theorem scramble_read_listed (d : Nat) (l : List Nat) : ∀ (k : Nat) {m : Memory}, Memory.wf m = true →
    ∀ a ∈ l, ∃ j, Memory.read (scramble d k l m) a = Config.freeByte d j := by
  induction l with
  | nil => intro k m _ a ha; exact absurd ha (List.not_mem_nil)
  | cons x rest ih =>
    intro k m h a ha
    have hw := write_wf h x (Config.freeByte d k)
    by_cases hr : a ∈ rest
    · exact ih (k + 1) hw a hr
    · obtain rfl : a = x := (List.mem_cons.mp ha).resolve_right hr
      exact ⟨k, by rw [scramble, scramble_read_other d rest (k + 1) hw a hr, read_write h, if_pos rfl]⟩

end Sys2Proof.Machine
end

