-- ==== Sys2Proof/Laws/State.lean ====
section
/-! SUPPORT. One lemma per field per update of the state, so that no later proof unfolds a record update. -/

namespace Sys2Proof.Machine

variable (s : State)

/-! ### `nextDraw` -/

@[simp] theorem nextDraw_phase : (nextDraw s).phase = s.phase := rfl
@[simp] theorem nextDraw_status : (nextDraw s).status = s.status := rfl
@[simp] theorem nextDraw_faultAddr : (nextDraw s).faultAddr = s.faultAddr := rfl
@[simp] theorem nextDraw_bpp : (nextDraw s).bpp = s.bpp := rfl
@[simp] theorem nextDraw_width : (nextDraw s).width = s.width := rfl
@[simp] theorem nextDraw_height : (nextDraw s).height = s.height := rfl
@[simp] theorem nextDraw_inBase : (nextDraw s).inBase = s.inBase := rfl
@[simp] theorem nextDraw_outBase : (nextDraw s).outBase = s.outBase := rfl
@[simp] theorem nextDraw_laneB0 : (nextDraw s).laneB0 = s.laneB0 := rfl
@[simp] theorem nextDraw_laneB1 : (nextDraw s).laneB1 = s.laneB1 := rfl
@[simp] theorem nextDraw_laneW0 : (nextDraw s).laneW0 = s.laneW0 := rfl
@[simp] theorem nextDraw_laneW1 : (nextDraw s).laneW1 = s.laneW1 := rfl
@[simp] theorem nextDraw_laneW2 : (nextDraw s).laneW2 = s.laneW2 := rfl
@[simp] theorem nextDraw_laneW3 : (nextDraw s).laneW3 = s.laneW3 := rfl
@[simp] theorem nextDraw_lat : (nextDraw s).lat = s.lat := rfl
@[simp] theorem nextDraw_seq : (nextDraw s).seq = s.seq := rfl
@[simp] theorem nextDraw_vop : (nextDraw s).vop = s.vop := rfl
@[simp] theorem nextDraw_sv : (nextDraw s).sv = s.sv := rfl
@[simp] theorem nextDraw_sh : (nextDraw s).sh = s.sh := rfl
@[simp] theorem nextDraw_vr : (nextDraw s).vr = s.vr := rfl
@[simp] theorem nextDraw_ssv : (nextDraw s).ssv = s.ssv := rfl
@[simp] theorem nextDraw_ssh : (nextDraw s).ssh = s.ssh := rfl
@[simp] theorem nextDraw_mem : (nextDraw s).mem = s.mem := rfl
@[simp] theorem nextDraw_memMap : (nextDraw s).memMap = s.memMap := rfl
@[simp] theorem nextDraw_inputs : (nextDraw s).inputs = s.inputs := rfl
@[simp] theorem nextDraw_busData : (nextDraw s).busData = s.busData := rfl
@[simp] theorem nextDraw_draws : (nextDraw s).draws = s.draws + 1 := rfl
@[simp] theorem nextDraw_racedIn : (nextDraw s).racedIn = s.racedIn := rfl
@[simp] theorem nextDraw_racedOut : (nextDraw s).racedOut = s.racedOut := rfl
@[simp] theorem nextDraw_unread : (nextDraw s).unread = s.unread := rfl

/-! ### `setMem` -/

@[simp] theorem setMem_phase (m : Memory) : (setMem s m).phase = s.phase := rfl
@[simp] theorem setMem_status (m : Memory) : (setMem s m).status = s.status := rfl
@[simp] theorem setMem_faultAddr (m : Memory) : (setMem s m).faultAddr = s.faultAddr := rfl
@[simp] theorem setMem_bpp (m : Memory) : (setMem s m).bpp = s.bpp := rfl
@[simp] theorem setMem_width (m : Memory) : (setMem s m).width = s.width := rfl
@[simp] theorem setMem_height (m : Memory) : (setMem s m).height = s.height := rfl
@[simp] theorem setMem_inBase (m : Memory) : (setMem s m).inBase = s.inBase := rfl
@[simp] theorem setMem_outBase (m : Memory) : (setMem s m).outBase = s.outBase := rfl
@[simp] theorem setMem_laneB0 (m : Memory) : (setMem s m).laneB0 = s.laneB0 := rfl
@[simp] theorem setMem_laneB1 (m : Memory) : (setMem s m).laneB1 = s.laneB1 := rfl
@[simp] theorem setMem_laneW0 (m : Memory) : (setMem s m).laneW0 = s.laneW0 := rfl
@[simp] theorem setMem_laneW1 (m : Memory) : (setMem s m).laneW1 = s.laneW1 := rfl
@[simp] theorem setMem_laneW2 (m : Memory) : (setMem s m).laneW2 = s.laneW2 := rfl
@[simp] theorem setMem_laneW3 (m : Memory) : (setMem s m).laneW3 = s.laneW3 := rfl
@[simp] theorem setMem_lat (m : Memory) : (setMem s m).lat = s.lat := rfl
@[simp] theorem setMem_seq (m : Memory) : (setMem s m).seq = s.seq := rfl
@[simp] theorem setMem_vop (m : Memory) : (setMem s m).vop = s.vop := rfl
@[simp] theorem setMem_sv (m : Memory) : (setMem s m).sv = s.sv := rfl
@[simp] theorem setMem_sh (m : Memory) : (setMem s m).sh = s.sh := rfl
@[simp] theorem setMem_vr (m : Memory) : (setMem s m).vr = s.vr := rfl
@[simp] theorem setMem_ssv (m : Memory) : (setMem s m).ssv = s.ssv := rfl
@[simp] theorem setMem_ssh (m : Memory) : (setMem s m).ssh = s.ssh := rfl
@[simp] theorem setMem_mem (m : Memory) : (setMem s m).mem = m := rfl
@[simp] theorem setMem_memMap (m : Memory) : (setMem s m).memMap = s.memMap := rfl
@[simp] theorem setMem_inputs (m : Memory) : (setMem s m).inputs = s.inputs := rfl
@[simp] theorem setMem_busData (m : Memory) : (setMem s m).busData = s.busData := rfl
@[simp] theorem setMem_draws (m : Memory) : (setMem s m).draws = s.draws := rfl
@[simp] theorem setMem_racedIn (m : Memory) : (setMem s m).racedIn = s.racedIn := rfl
@[simp] theorem setMem_racedOut (m : Memory) : (setMem s m).racedOut = s.racedOut := rfl
@[simp] theorem setMem_unread (m : Memory) : (setMem s m).unread = s.unread := rfl

/-! ### `setSeq` -/

@[simp] theorem setSeq_phase (q : SeqPos) : (setSeq s q).phase = s.phase := rfl
@[simp] theorem setSeq_status (q : SeqPos) : (setSeq s q).status = s.status := rfl
@[simp] theorem setSeq_faultAddr (q : SeqPos) : (setSeq s q).faultAddr = s.faultAddr := rfl
@[simp] theorem setSeq_bpp (q : SeqPos) : (setSeq s q).bpp = s.bpp := rfl
@[simp] theorem setSeq_width (q : SeqPos) : (setSeq s q).width = s.width := rfl
@[simp] theorem setSeq_height (q : SeqPos) : (setSeq s q).height = s.height := rfl
@[simp] theorem setSeq_inBase (q : SeqPos) : (setSeq s q).inBase = s.inBase := rfl
@[simp] theorem setSeq_outBase (q : SeqPos) : (setSeq s q).outBase = s.outBase := rfl
@[simp] theorem setSeq_laneB0 (q : SeqPos) : (setSeq s q).laneB0 = s.laneB0 := rfl
@[simp] theorem setSeq_laneB1 (q : SeqPos) : (setSeq s q).laneB1 = s.laneB1 := rfl
@[simp] theorem setSeq_laneW0 (q : SeqPos) : (setSeq s q).laneW0 = s.laneW0 := rfl
@[simp] theorem setSeq_laneW1 (q : SeqPos) : (setSeq s q).laneW1 = s.laneW1 := rfl
@[simp] theorem setSeq_laneW2 (q : SeqPos) : (setSeq s q).laneW2 = s.laneW2 := rfl
@[simp] theorem setSeq_laneW3 (q : SeqPos) : (setSeq s q).laneW3 = s.laneW3 := rfl
@[simp] theorem setSeq_lat (q : SeqPos) : (setSeq s q).lat = s.lat := rfl
@[simp] theorem setSeq_seq (q : SeqPos) : (setSeq s q).seq = q := rfl
@[simp] theorem setSeq_vop (q : SeqPos) : (setSeq s q).vop = s.vop := rfl
@[simp] theorem setSeq_sv (q : SeqPos) : (setSeq s q).sv = s.sv := rfl
@[simp] theorem setSeq_sh (q : SeqPos) : (setSeq s q).sh = s.sh := rfl
@[simp] theorem setSeq_vr (q : SeqPos) : (setSeq s q).vr = s.vr := rfl
@[simp] theorem setSeq_ssv (q : SeqPos) : (setSeq s q).ssv = s.ssv := rfl
@[simp] theorem setSeq_ssh (q : SeqPos) : (setSeq s q).ssh = s.ssh := rfl
@[simp] theorem setSeq_mem (q : SeqPos) : (setSeq s q).mem = s.mem := rfl
@[simp] theorem setSeq_memMap (q : SeqPos) : (setSeq s q).memMap = s.memMap := rfl
@[simp] theorem setSeq_inputs (q : SeqPos) : (setSeq s q).inputs = s.inputs := rfl
@[simp] theorem setSeq_busData (q : SeqPos) : (setSeq s q).busData = s.busData := rfl
@[simp] theorem setSeq_draws (q : SeqPos) : (setSeq s q).draws = s.draws := rfl
@[simp] theorem setSeq_racedIn (q : SeqPos) : (setSeq s q).racedIn = s.racedIn := rfl
@[simp] theorem setSeq_racedOut (q : SeqPos) : (setSeq s q).racedOut = s.racedOut := rfl
@[simp] theorem setSeq_unread (q : SeqPos) : (setSeq s q).unread = s.unread := rfl

/-! ### `setVop` -/

@[simp] theorem setVop_phase (v : Win (Oct Lane)) : (setVop s v).phase = s.phase := rfl
@[simp] theorem setVop_status (v : Win (Oct Lane)) : (setVop s v).status = s.status := rfl
@[simp] theorem setVop_faultAddr (v : Win (Oct Lane)) : (setVop s v).faultAddr = s.faultAddr := rfl
@[simp] theorem setVop_bpp (v : Win (Oct Lane)) : (setVop s v).bpp = s.bpp := rfl
@[simp] theorem setVop_width (v : Win (Oct Lane)) : (setVop s v).width = s.width := rfl
@[simp] theorem setVop_height (v : Win (Oct Lane)) : (setVop s v).height = s.height := rfl
@[simp] theorem setVop_inBase (v : Win (Oct Lane)) : (setVop s v).inBase = s.inBase := rfl
@[simp] theorem setVop_outBase (v : Win (Oct Lane)) : (setVop s v).outBase = s.outBase := rfl
@[simp] theorem setVop_laneB0 (v : Win (Oct Lane)) : (setVop s v).laneB0 = s.laneB0 := rfl
@[simp] theorem setVop_laneB1 (v : Win (Oct Lane)) : (setVop s v).laneB1 = s.laneB1 := rfl
@[simp] theorem setVop_laneW0 (v : Win (Oct Lane)) : (setVop s v).laneW0 = s.laneW0 := rfl
@[simp] theorem setVop_laneW1 (v : Win (Oct Lane)) : (setVop s v).laneW1 = s.laneW1 := rfl
@[simp] theorem setVop_laneW2 (v : Win (Oct Lane)) : (setVop s v).laneW2 = s.laneW2 := rfl
@[simp] theorem setVop_laneW3 (v : Win (Oct Lane)) : (setVop s v).laneW3 = s.laneW3 := rfl
@[simp] theorem setVop_lat (v : Win (Oct Lane)) : (setVop s v).lat = s.lat := rfl
@[simp] theorem setVop_seq (v : Win (Oct Lane)) : (setVop s v).seq = s.seq := rfl
@[simp] theorem setVop_vop (v : Win (Oct Lane)) : (setVop s v).vop = v := rfl
@[simp] theorem setVop_sv (v : Win (Oct Lane)) : (setVop s v).sv = s.sv := rfl
@[simp] theorem setVop_sh (v : Win (Oct Lane)) : (setVop s v).sh = s.sh := rfl
@[simp] theorem setVop_vr (v : Win (Oct Lane)) : (setVop s v).vr = s.vr := rfl
@[simp] theorem setVop_ssv (v : Win (Oct Lane)) : (setVop s v).ssv = s.ssv := rfl
@[simp] theorem setVop_ssh (v : Win (Oct Lane)) : (setVop s v).ssh = s.ssh := rfl
@[simp] theorem setVop_mem (v : Win (Oct Lane)) : (setVop s v).mem = s.mem := rfl
@[simp] theorem setVop_memMap (v : Win (Oct Lane)) : (setVop s v).memMap = s.memMap := rfl
@[simp] theorem setVop_inputs (v : Win (Oct Lane)) : (setVop s v).inputs = s.inputs := rfl
@[simp] theorem setVop_busData (v : Win (Oct Lane)) : (setVop s v).busData = s.busData := rfl
@[simp] theorem setVop_draws (v : Win (Oct Lane)) : (setVop s v).draws = s.draws := rfl
@[simp] theorem setVop_racedIn (v : Win (Oct Lane)) : (setVop s v).racedIn = s.racedIn := rfl
@[simp] theorem setVop_racedOut (v : Win (Oct Lane)) : (setVop s v).racedOut = s.racedOut := rfl
@[simp] theorem setVop_unread (v : Win (Oct Lane)) : (setVop s v).unread = s.unread := rfl

/-! ### `storeByte` -/

@[simp] theorem storeByte_phase (a : Nat) (b : Byte) : (storeByte s a b).phase = s.phase := rfl
@[simp] theorem storeByte_status (a : Nat) (b : Byte) : (storeByte s a b).status = s.status := rfl
@[simp] theorem storeByte_faultAddr (a : Nat) (b : Byte) : (storeByte s a b).faultAddr = s.faultAddr := rfl
@[simp] theorem storeByte_bpp (a : Nat) (b : Byte) : (storeByte s a b).bpp = s.bpp := rfl
@[simp] theorem storeByte_width (a : Nat) (b : Byte) : (storeByte s a b).width = s.width := rfl
@[simp] theorem storeByte_height (a : Nat) (b : Byte) : (storeByte s a b).height = s.height := rfl
@[simp] theorem storeByte_inBase (a : Nat) (b : Byte) : (storeByte s a b).inBase = s.inBase := rfl
@[simp] theorem storeByte_outBase (a : Nat) (b : Byte) : (storeByte s a b).outBase = s.outBase := rfl
@[simp] theorem storeByte_laneB0 (a : Nat) (b : Byte) : (storeByte s a b).laneB0 = s.laneB0 := rfl
@[simp] theorem storeByte_laneB1 (a : Nat) (b : Byte) : (storeByte s a b).laneB1 = s.laneB1 := rfl
@[simp] theorem storeByte_laneW0 (a : Nat) (b : Byte) : (storeByte s a b).laneW0 = s.laneW0 := rfl
@[simp] theorem storeByte_laneW1 (a : Nat) (b : Byte) : (storeByte s a b).laneW1 = s.laneW1 := rfl
@[simp] theorem storeByte_laneW2 (a : Nat) (b : Byte) : (storeByte s a b).laneW2 = s.laneW2 := rfl
@[simp] theorem storeByte_laneW3 (a : Nat) (b : Byte) : (storeByte s a b).laneW3 = s.laneW3 := rfl
@[simp] theorem storeByte_lat (a : Nat) (b : Byte) : (storeByte s a b).lat = s.lat := rfl
@[simp] theorem storeByte_seq (a : Nat) (b : Byte) : (storeByte s a b).seq = s.seq := rfl
@[simp] theorem storeByte_vop (a : Nat) (b : Byte) : (storeByte s a b).vop = s.vop := rfl
@[simp] theorem storeByte_sv (a : Nat) (b : Byte) : (storeByte s a b).sv = s.sv := rfl
@[simp] theorem storeByte_sh (a : Nat) (b : Byte) : (storeByte s a b).sh = s.sh := rfl
@[simp] theorem storeByte_vr (a : Nat) (b : Byte) : (storeByte s a b).vr = s.vr := rfl
@[simp] theorem storeByte_ssv (a : Nat) (b : Byte) : (storeByte s a b).ssv = s.ssv := rfl
@[simp] theorem storeByte_ssh (a : Nat) (b : Byte) : (storeByte s a b).ssh = s.ssh := rfl
@[simp] theorem storeByte_mem (a : Nat) (b : Byte) : (storeByte s a b).mem = Memory.write s.mem a b := rfl
@[simp] theorem storeByte_memMap (a : Nat) (b : Byte) : (storeByte s a b).memMap = s.memMap := rfl
@[simp] theorem storeByte_inputs (a : Nat) (b : Byte) : (storeByte s a b).inputs = s.inputs := rfl
@[simp] theorem storeByte_busData (a : Nat) (b : Byte) : (storeByte s a b).busData = s.busData := rfl
@[simp] theorem storeByte_draws (a : Nat) (b : Byte) : (storeByte s a b).draws = s.draws := rfl
@[simp] theorem storeByte_racedIn (a : Nat) (b : Byte) : (storeByte s a b).racedIn = s.racedIn := rfl
@[simp] theorem storeByte_racedOut (a : Nat) (b : Byte) : (storeByte s a b).racedOut = s.racedOut := rfl
@[simp] theorem storeByte_unread (a : Nat) (b : Byte) : (storeByte s a b).unread = s.unread := rfl

/-! ### `acceptClear` -/

@[simp] theorem acceptClear_phase : (acceptClear s).phase = s.phase := rfl
@[simp] theorem acceptClear_status : (acceptClear s).status = statusClear := rfl
@[simp] theorem acceptClear_faultAddr : (acceptClear s).faultAddr = 0#32 := rfl
@[simp] theorem acceptClear_bpp : (acceptClear s).bpp = s.bpp := rfl
@[simp] theorem acceptClear_width : (acceptClear s).width = s.width := rfl
@[simp] theorem acceptClear_height : (acceptClear s).height = s.height := rfl
@[simp] theorem acceptClear_inBase : (acceptClear s).inBase = s.inBase := rfl
@[simp] theorem acceptClear_outBase : (acceptClear s).outBase = s.outBase := rfl
@[simp] theorem acceptClear_laneB0 : (acceptClear s).laneB0 = s.laneB0 := rfl
@[simp] theorem acceptClear_laneB1 : (acceptClear s).laneB1 = s.laneB1 := rfl
@[simp] theorem acceptClear_laneW0 : (acceptClear s).laneW0 = s.laneW0 := rfl
@[simp] theorem acceptClear_laneW1 : (acceptClear s).laneW1 = s.laneW1 := rfl
@[simp] theorem acceptClear_laneW2 : (acceptClear s).laneW2 = s.laneW2 := rfl
@[simp] theorem acceptClear_laneW3 : (acceptClear s).laneW3 = s.laneW3 := rfl
@[simp] theorem acceptClear_lat : (acceptClear s).lat = s.lat := rfl
@[simp] theorem acceptClear_seq : (acceptClear s).seq = s.seq := rfl
@[simp] theorem acceptClear_vop : (acceptClear s).vop = s.vop := rfl
@[simp] theorem acceptClear_sv : (acceptClear s).sv = s.sv := rfl
@[simp] theorem acceptClear_sh : (acceptClear s).sh = s.sh := rfl
@[simp] theorem acceptClear_vr : (acceptClear s).vr = s.vr := rfl
@[simp] theorem acceptClear_ssv : (acceptClear s).ssv = s.ssv := rfl
@[simp] theorem acceptClear_ssh : (acceptClear s).ssh = s.ssh := rfl
@[simp] theorem acceptClear_mem : (acceptClear s).mem = s.mem := rfl
@[simp] theorem acceptClear_memMap : (acceptClear s).memMap = s.memMap := rfl
@[simp] theorem acceptClear_inputs : (acceptClear s).inputs = s.inputs := rfl
@[simp] theorem acceptClear_busData : (acceptClear s).busData = s.busData := rfl
@[simp] theorem acceptClear_draws : (acceptClear s).draws = s.draws := rfl
@[simp] theorem acceptClear_racedIn : (acceptClear s).racedIn = s.racedIn := rfl
@[simp] theorem acceptClear_racedOut : (acceptClear s).racedOut = s.racedOut := rfl
@[simp] theorem acceptClear_unread : (acceptClear s).unread = s.unread := rfl

/-! ### `raiseError` -/

@[simp] theorem raiseError_phase (e : ErrCode) (a : Word) : (raiseError s e a).phase = .idle := rfl
@[simp] theorem raiseError_status (e : ErrCode) (a : Word) : (raiseError s e a).status = statusError e := rfl
@[simp] theorem raiseError_faultAddr (e : ErrCode) (a : Word) : (raiseError s e a).faultAddr = if e = .busError then a else 0#32 := rfl
@[simp] theorem raiseError_bpp (e : ErrCode) (a : Word) : (raiseError s e a).bpp = s.bpp := rfl
@[simp] theorem raiseError_width (e : ErrCode) (a : Word) : (raiseError s e a).width = s.width := rfl
@[simp] theorem raiseError_height (e : ErrCode) (a : Word) : (raiseError s e a).height = s.height := rfl
@[simp] theorem raiseError_inBase (e : ErrCode) (a : Word) : (raiseError s e a).inBase = s.inBase := rfl
@[simp] theorem raiseError_outBase (e : ErrCode) (a : Word) : (raiseError s e a).outBase = s.outBase := rfl
@[simp] theorem raiseError_laneB0 (e : ErrCode) (a : Word) : (raiseError s e a).laneB0 = s.laneB0 := rfl
@[simp] theorem raiseError_laneB1 (e : ErrCode) (a : Word) : (raiseError s e a).laneB1 = s.laneB1 := rfl
@[simp] theorem raiseError_laneW0 (e : ErrCode) (a : Word) : (raiseError s e a).laneW0 = s.laneW0 := rfl
@[simp] theorem raiseError_laneW1 (e : ErrCode) (a : Word) : (raiseError s e a).laneW1 = s.laneW1 := rfl
@[simp] theorem raiseError_laneW2 (e : ErrCode) (a : Word) : (raiseError s e a).laneW2 = s.laneW2 := rfl
@[simp] theorem raiseError_laneW3 (e : ErrCode) (a : Word) : (raiseError s e a).laneW3 = s.laneW3 := rfl
@[simp] theorem raiseError_lat (e : ErrCode) (a : Word) : (raiseError s e a).lat = s.lat := rfl
@[simp] theorem raiseError_seq (e : ErrCode) (a : Word) : (raiseError s e a).seq = s.seq := rfl
@[simp] theorem raiseError_vop (e : ErrCode) (a : Word) : (raiseError s e a).vop = s.vop := rfl
@[simp] theorem raiseError_sv (e : ErrCode) (a : Word) : (raiseError s e a).sv = s.sv := rfl
@[simp] theorem raiseError_sh (e : ErrCode) (a : Word) : (raiseError s e a).sh = s.sh := rfl
@[simp] theorem raiseError_vr (e : ErrCode) (a : Word) : (raiseError s e a).vr = s.vr := rfl
@[simp] theorem raiseError_ssv (e : ErrCode) (a : Word) : (raiseError s e a).ssv = s.ssv := rfl
@[simp] theorem raiseError_ssh (e : ErrCode) (a : Word) : (raiseError s e a).ssh = s.ssh := rfl
@[simp] theorem raiseError_mem (e : ErrCode) (a : Word) : (raiseError s e a).mem = s.mem := rfl
@[simp] theorem raiseError_memMap (e : ErrCode) (a : Word) : (raiseError s e a).memMap = s.memMap := rfl
@[simp] theorem raiseError_inputs (e : ErrCode) (a : Word) : (raiseError s e a).inputs = s.inputs := rfl
@[simp] theorem raiseError_busData (e : ErrCode) (a : Word) : (raiseError s e a).busData = s.busData := rfl
@[simp] theorem raiseError_draws (e : ErrCode) (a : Word) : (raiseError s e a).draws = s.draws := rfl
@[simp] theorem raiseError_racedIn (e : ErrCode) (a : Word) : (raiseError s e a).racedIn = s.racedIn := rfl
@[simp] theorem raiseError_racedOut (e : ErrCode) (a : Word) : (raiseError s e a).racedOut = s.racedOut := rfl
@[simp] theorem raiseError_unread (e : ErrCode) (a : Word) : (raiseError s e a).unread = s.unread := rfl

/-! ### `completeAtOnce` -/

@[simp] theorem completeAtOnce_phase : (completeAtOnce s).phase = s.phase := rfl
@[simp] theorem completeAtOnce_status : (completeAtOnce s).status = statusDone := rfl
@[simp] theorem completeAtOnce_faultAddr : (completeAtOnce s).faultAddr = s.faultAddr := rfl
@[simp] theorem completeAtOnce_bpp : (completeAtOnce s).bpp = s.bpp := rfl
@[simp] theorem completeAtOnce_width : (completeAtOnce s).width = s.width := rfl
@[simp] theorem completeAtOnce_height : (completeAtOnce s).height = s.height := rfl
@[simp] theorem completeAtOnce_inBase : (completeAtOnce s).inBase = s.inBase := rfl
@[simp] theorem completeAtOnce_outBase : (completeAtOnce s).outBase = s.outBase := rfl
@[simp] theorem completeAtOnce_laneB0 : (completeAtOnce s).laneB0 = s.laneB0 := rfl
@[simp] theorem completeAtOnce_laneB1 : (completeAtOnce s).laneB1 = s.laneB1 := rfl
@[simp] theorem completeAtOnce_laneW0 : (completeAtOnce s).laneW0 = s.laneW0 := rfl
@[simp] theorem completeAtOnce_laneW1 : (completeAtOnce s).laneW1 = s.laneW1 := rfl
@[simp] theorem completeAtOnce_laneW2 : (completeAtOnce s).laneW2 = s.laneW2 := rfl
@[simp] theorem completeAtOnce_laneW3 : (completeAtOnce s).laneW3 = s.laneW3 := rfl
@[simp] theorem completeAtOnce_lat : (completeAtOnce s).lat = s.lat := rfl
@[simp] theorem completeAtOnce_seq : (completeAtOnce s).seq = s.seq := rfl
@[simp] theorem completeAtOnce_vop : (completeAtOnce s).vop = s.vop := rfl
@[simp] theorem completeAtOnce_sv : (completeAtOnce s).sv = s.sv := rfl
@[simp] theorem completeAtOnce_sh : (completeAtOnce s).sh = s.sh := rfl
@[simp] theorem completeAtOnce_vr : (completeAtOnce s).vr = s.vr := rfl
@[simp] theorem completeAtOnce_ssv : (completeAtOnce s).ssv = s.ssv := rfl
@[simp] theorem completeAtOnce_ssh : (completeAtOnce s).ssh = s.ssh := rfl
@[simp] theorem completeAtOnce_mem : (completeAtOnce s).mem = s.mem := rfl
@[simp] theorem completeAtOnce_memMap : (completeAtOnce s).memMap = s.memMap := rfl
@[simp] theorem completeAtOnce_inputs : (completeAtOnce s).inputs = s.inputs := rfl
@[simp] theorem completeAtOnce_busData : (completeAtOnce s).busData = s.busData := rfl
@[simp] theorem completeAtOnce_draws : (completeAtOnce s).draws = s.draws := rfl
@[simp] theorem completeAtOnce_racedIn : (completeAtOnce s).racedIn = s.racedIn := rfl
@[simp] theorem completeAtOnce_racedOut : (completeAtOnce s).racedOut = s.racedOut := rfl
@[simp] theorem completeAtOnce_unread : (completeAtOnce s).unread = s.unread := rfl

/-! ### `accumulate` -/

@[simp] theorem accumulate_phase (w : Win Byte) : (accumulate s w).phase = s.phase := rfl
@[simp] theorem accumulate_status (w : Win Byte) : (accumulate s w).status = s.status := rfl
@[simp] theorem accumulate_faultAddr (w : Win Byte) : (accumulate s w).faultAddr = s.faultAddr := rfl
@[simp] theorem accumulate_bpp (w : Win Byte) : (accumulate s w).bpp = s.bpp := rfl
@[simp] theorem accumulate_width (w : Win Byte) : (accumulate s w).width = s.width := rfl
@[simp] theorem accumulate_height (w : Win Byte) : (accumulate s w).height = s.height := rfl
@[simp] theorem accumulate_inBase (w : Win Byte) : (accumulate s w).inBase = s.inBase := rfl
@[simp] theorem accumulate_outBase (w : Win Byte) : (accumulate s w).outBase = s.outBase := rfl
@[simp] theorem accumulate_laneB0 (w : Win Byte) : (accumulate s w).laneB0 = s.laneB0 := rfl
@[simp] theorem accumulate_laneB1 (w : Win Byte) : (accumulate s w).laneB1 = s.laneB1 := rfl
@[simp] theorem accumulate_laneW0 (w : Win Byte) : (accumulate s w).laneW0 = s.laneW0 := rfl
@[simp] theorem accumulate_laneW1 (w : Win Byte) : (accumulate s w).laneW1 = s.laneW1 := rfl
@[simp] theorem accumulate_laneW2 (w : Win Byte) : (accumulate s w).laneW2 = s.laneW2 := rfl
@[simp] theorem accumulate_laneW3 (w : Win Byte) : (accumulate s w).laneW3 = s.laneW3 := rfl
@[simp] theorem accumulate_lat (w : Win Byte) : (accumulate s w).lat = s.lat := rfl
@[simp] theorem accumulate_seq (w : Win Byte) : (accumulate s w).seq = s.seq := rfl
@[simp] theorem accumulate_vop (w : Win Byte) : (accumulate s w).vop = s.vop := rfl
@[simp] theorem accumulate_sv (w : Win Byte) : (accumulate s w).sv = s.sv := rfl
@[simp] theorem accumulate_sh (w : Win Byte) : (accumulate s w).sh = s.sh := rfl
@[simp] theorem accumulate_vr (w : Win Byte) : (accumulate s w).vr = s.vr := rfl
@[simp] theorem accumulate_ssv (w : Win Byte) : (accumulate s w).ssv = s32 (sumV w) := rfl
@[simp] theorem accumulate_ssh (w : Win Byte) : (accumulate s w).ssh = s32 (sumH w) := rfl
@[simp] theorem accumulate_mem (w : Win Byte) : (accumulate s w).mem = s.mem := rfl
@[simp] theorem accumulate_memMap (w : Win Byte) : (accumulate s w).memMap = s.memMap := rfl
@[simp] theorem accumulate_inputs (w : Win Byte) : (accumulate s w).inputs = s.inputs := rfl
@[simp] theorem accumulate_busData (w : Win Byte) : (accumulate s w).busData = s.busData := rfl
@[simp] theorem accumulate_draws (w : Win Byte) : (accumulate s w).draws = s.draws := rfl
@[simp] theorem accumulate_racedIn (w : Win Byte) : (accumulate s w).racedIn = s.racedIn := rfl
@[simp] theorem accumulate_racedOut (w : Win Byte) : (accumulate s w).racedOut = s.racedOut := rfl
@[simp] theorem accumulate_unread (w : Win Byte) : (accumulate s w).unread = s.unread := rfl

/-! ### `computeChunk` -/

@[simp] theorem computeChunk_phase : (computeChunk s).phase = s.phase := rfl
@[simp] theorem computeChunk_status : (computeChunk s).status = s.status := rfl
@[simp] theorem computeChunk_faultAddr : (computeChunk s).faultAddr = s.faultAddr := rfl
@[simp] theorem computeChunk_bpp : (computeChunk s).bpp = s.bpp := rfl
@[simp] theorem computeChunk_width : (computeChunk s).width = s.width := rfl
@[simp] theorem computeChunk_height : (computeChunk s).height = s.height := rfl
@[simp] theorem computeChunk_inBase : (computeChunk s).inBase = s.inBase := rfl
@[simp] theorem computeChunk_outBase : (computeChunk s).outBase = s.outBase := rfl
@[simp] theorem computeChunk_laneB0 : (computeChunk s).laneB0 = s.laneB0 := rfl
@[simp] theorem computeChunk_laneB1 : (computeChunk s).laneB1 = s.laneB1 := rfl
@[simp] theorem computeChunk_laneW0 : (computeChunk s).laneW0 = s.laneW0 := rfl
@[simp] theorem computeChunk_laneW1 : (computeChunk s).laneW1 = s.laneW1 := rfl
@[simp] theorem computeChunk_laneW2 : (computeChunk s).laneW2 = s.laneW2 := rfl
@[simp] theorem computeChunk_laneW3 : (computeChunk s).laneW3 = s.laneW3 := rfl
@[simp] theorem computeChunk_lat : (computeChunk s).lat = s.lat := rfl
@[simp] theorem computeChunk_seq : (computeChunk s).seq = s.seq := rfl
@[simp] theorem computeChunk_vop : (computeChunk s).vop = s.vop := rfl
@[simp] theorem computeChunk_sv : (computeChunk s).sv = verticalSum s.vop := rfl
@[simp] theorem computeChunk_sh : (computeChunk s).sh = horizontalSum s.vop := rfl
@[simp] theorem computeChunk_vr : (computeChunk s).vr = chunkResult (verticalSum s.vop) (horizontalSum s.vop) := rfl
@[simp] theorem computeChunk_ssv : (computeChunk s).ssv = s.ssv := rfl
@[simp] theorem computeChunk_ssh : (computeChunk s).ssh = s.ssh := rfl
@[simp] theorem computeChunk_mem : (computeChunk s).mem = s.mem := rfl
@[simp] theorem computeChunk_memMap : (computeChunk s).memMap = s.memMap := rfl
@[simp] theorem computeChunk_inputs : (computeChunk s).inputs = s.inputs := rfl
@[simp] theorem computeChunk_busData : (computeChunk s).busData = s.busData := rfl
@[simp] theorem computeChunk_draws : (computeChunk s).draws = s.draws := rfl
@[simp] theorem computeChunk_racedIn : (computeChunk s).racedIn = s.racedIn := rfl
@[simp] theorem computeChunk_racedOut : (computeChunk s).racedOut = s.racedOut := rfl
@[simp] theorem computeChunk_unread : (computeChunk s).unread = s.unread := rfl

/-! ### `writeLaneBytes` -/

@[simp] theorem writeLaneBytes_phase (b : Oct Byte) : (writeLaneBytes s b).phase = s.phase := rfl
@[simp] theorem writeLaneBytes_status (b : Oct Byte) : (writeLaneBytes s b).status = s.status := rfl
@[simp] theorem writeLaneBytes_faultAddr (b : Oct Byte) : (writeLaneBytes s b).faultAddr = s.faultAddr := rfl
@[simp] theorem writeLaneBytes_bpp (b : Oct Byte) : (writeLaneBytes s b).bpp = s.bpp := rfl
@[simp] theorem writeLaneBytes_width (b : Oct Byte) : (writeLaneBytes s b).width = s.width := rfl
@[simp] theorem writeLaneBytes_height (b : Oct Byte) : (writeLaneBytes s b).height = s.height := rfl
@[simp] theorem writeLaneBytes_inBase (b : Oct Byte) : (writeLaneBytes s b).inBase = s.inBase := rfl
@[simp] theorem writeLaneBytes_outBase (b : Oct Byte) : (writeLaneBytes s b).outBase = s.outBase := rfl
@[simp] theorem writeLaneBytes_laneB0 (b : Oct Byte) : (writeLaneBytes s b).laneB0 = b.e3 ++ (b.e2 ++ (b.e1 ++ b.e0)) := rfl
@[simp] theorem writeLaneBytes_laneB1 (b : Oct Byte) : (writeLaneBytes s b).laneB1 = b.e7 ++ (b.e6 ++ (b.e5 ++ b.e4)) := rfl
@[simp] theorem writeLaneBytes_laneW0 (b : Oct Byte) : (writeLaneBytes s b).laneW0 = s.laneW0 := rfl
@[simp] theorem writeLaneBytes_laneW1 (b : Oct Byte) : (writeLaneBytes s b).laneW1 = s.laneW1 := rfl
@[simp] theorem writeLaneBytes_laneW2 (b : Oct Byte) : (writeLaneBytes s b).laneW2 = s.laneW2 := rfl
@[simp] theorem writeLaneBytes_laneW3 (b : Oct Byte) : (writeLaneBytes s b).laneW3 = s.laneW3 := rfl
@[simp] theorem writeLaneBytes_lat (b : Oct Byte) : (writeLaneBytes s b).lat = s.lat := rfl
@[simp] theorem writeLaneBytes_seq (b : Oct Byte) : (writeLaneBytes s b).seq = s.seq := rfl
@[simp] theorem writeLaneBytes_vop (b : Oct Byte) : (writeLaneBytes s b).vop = s.vop := rfl
@[simp] theorem writeLaneBytes_sv (b : Oct Byte) : (writeLaneBytes s b).sv = s.sv := rfl
@[simp] theorem writeLaneBytes_sh (b : Oct Byte) : (writeLaneBytes s b).sh = s.sh := rfl
@[simp] theorem writeLaneBytes_vr (b : Oct Byte) : (writeLaneBytes s b).vr = s.vr := rfl
@[simp] theorem writeLaneBytes_ssv (b : Oct Byte) : (writeLaneBytes s b).ssv = s.ssv := rfl
@[simp] theorem writeLaneBytes_ssh (b : Oct Byte) : (writeLaneBytes s b).ssh = s.ssh := rfl
@[simp] theorem writeLaneBytes_mem (b : Oct Byte) : (writeLaneBytes s b).mem = s.mem := rfl
@[simp] theorem writeLaneBytes_memMap (b : Oct Byte) : (writeLaneBytes s b).memMap = s.memMap := rfl
@[simp] theorem writeLaneBytes_inputs (b : Oct Byte) : (writeLaneBytes s b).inputs = s.inputs := rfl
@[simp] theorem writeLaneBytes_busData (b : Oct Byte) : (writeLaneBytes s b).busData = s.busData := rfl
@[simp] theorem writeLaneBytes_draws (b : Oct Byte) : (writeLaneBytes s b).draws = s.draws := rfl
@[simp] theorem writeLaneBytes_racedIn (b : Oct Byte) : (writeLaneBytes s b).racedIn = s.racedIn := rfl
@[simp] theorem writeLaneBytes_racedOut (b : Oct Byte) : (writeLaneBytes s b).racedOut = s.racedOut := rfl
@[simp] theorem writeLaneBytes_unread (b : Oct Byte) : (writeLaneBytes s b).unread = s.unread := rfl

/-! ### `writeLaneHalves` -/

@[simp] theorem writeLaneHalves_phase (l : Oct Lane) : (writeLaneHalves s l).phase = s.phase := rfl
@[simp] theorem writeLaneHalves_status (l : Oct Lane) : (writeLaneHalves s l).status = s.status := rfl
@[simp] theorem writeLaneHalves_faultAddr (l : Oct Lane) : (writeLaneHalves s l).faultAddr = s.faultAddr := rfl
@[simp] theorem writeLaneHalves_bpp (l : Oct Lane) : (writeLaneHalves s l).bpp = s.bpp := rfl
@[simp] theorem writeLaneHalves_width (l : Oct Lane) : (writeLaneHalves s l).width = s.width := rfl
@[simp] theorem writeLaneHalves_height (l : Oct Lane) : (writeLaneHalves s l).height = s.height := rfl
@[simp] theorem writeLaneHalves_inBase (l : Oct Lane) : (writeLaneHalves s l).inBase = s.inBase := rfl
@[simp] theorem writeLaneHalves_outBase (l : Oct Lane) : (writeLaneHalves s l).outBase = s.outBase := rfl
@[simp] theorem writeLaneHalves_laneB0 (l : Oct Lane) : (writeLaneHalves s l).laneB0 = s.laneB0 := rfl
@[simp] theorem writeLaneHalves_laneB1 (l : Oct Lane) : (writeLaneHalves s l).laneB1 = s.laneB1 := rfl
@[simp] theorem writeLaneHalves_laneW0 (l : Oct Lane) : (writeLaneHalves s l).laneW0 = l.e1 ++ l.e0 := rfl
@[simp] theorem writeLaneHalves_laneW1 (l : Oct Lane) : (writeLaneHalves s l).laneW1 = l.e3 ++ l.e2 := rfl
@[simp] theorem writeLaneHalves_laneW2 (l : Oct Lane) : (writeLaneHalves s l).laneW2 = l.e5 ++ l.e4 := rfl
@[simp] theorem writeLaneHalves_laneW3 (l : Oct Lane) : (writeLaneHalves s l).laneW3 = l.e7 ++ l.e6 := rfl
@[simp] theorem writeLaneHalves_lat (l : Oct Lane) : (writeLaneHalves s l).lat = s.lat := rfl
@[simp] theorem writeLaneHalves_seq (l : Oct Lane) : (writeLaneHalves s l).seq = s.seq := rfl
@[simp] theorem writeLaneHalves_vop (l : Oct Lane) : (writeLaneHalves s l).vop = s.vop := rfl
@[simp] theorem writeLaneHalves_sv (l : Oct Lane) : (writeLaneHalves s l).sv = s.sv := rfl
@[simp] theorem writeLaneHalves_sh (l : Oct Lane) : (writeLaneHalves s l).sh = s.sh := rfl
@[simp] theorem writeLaneHalves_vr (l : Oct Lane) : (writeLaneHalves s l).vr = s.vr := rfl
@[simp] theorem writeLaneHalves_ssv (l : Oct Lane) : (writeLaneHalves s l).ssv = s.ssv := rfl
@[simp] theorem writeLaneHalves_ssh (l : Oct Lane) : (writeLaneHalves s l).ssh = s.ssh := rfl
@[simp] theorem writeLaneHalves_mem (l : Oct Lane) : (writeLaneHalves s l).mem = s.mem := rfl
@[simp] theorem writeLaneHalves_memMap (l : Oct Lane) : (writeLaneHalves s l).memMap = s.memMap := rfl
@[simp] theorem writeLaneHalves_inputs (l : Oct Lane) : (writeLaneHalves s l).inputs = s.inputs := rfl
@[simp] theorem writeLaneHalves_busData (l : Oct Lane) : (writeLaneHalves s l).busData = s.busData := rfl
@[simp] theorem writeLaneHalves_draws (l : Oct Lane) : (writeLaneHalves s l).draws = s.draws := rfl
@[simp] theorem writeLaneHalves_racedIn (l : Oct Lane) : (writeLaneHalves s l).racedIn = s.racedIn := rfl
@[simp] theorem writeLaneHalves_racedOut (l : Oct Lane) : (writeLaneHalves s l).racedOut = s.racedOut := rfl
@[simp] theorem writeLaneHalves_unread (l : Oct Lane) : (writeLaneHalves s l).unread = s.unread := rfl

/-! ### `resetBlock` -/

@[simp] theorem resetBlock_phase : (resetBlock s).phase = State.reset.phase := rfl
@[simp] theorem resetBlock_status : (resetBlock s).status = State.reset.status := rfl
@[simp] theorem resetBlock_faultAddr : (resetBlock s).faultAddr = State.reset.faultAddr := rfl
@[simp] theorem resetBlock_bpp : (resetBlock s).bpp = State.reset.bpp := rfl
@[simp] theorem resetBlock_width : (resetBlock s).width = State.reset.width := rfl
@[simp] theorem resetBlock_height : (resetBlock s).height = State.reset.height := rfl
@[simp] theorem resetBlock_inBase : (resetBlock s).inBase = State.reset.inBase := rfl
@[simp] theorem resetBlock_outBase : (resetBlock s).outBase = State.reset.outBase := rfl
@[simp] theorem resetBlock_laneB0 : (resetBlock s).laneB0 = State.reset.laneB0 := rfl
@[simp] theorem resetBlock_laneB1 : (resetBlock s).laneB1 = State.reset.laneB1 := rfl
@[simp] theorem resetBlock_laneW0 : (resetBlock s).laneW0 = State.reset.laneW0 := rfl
@[simp] theorem resetBlock_laneW1 : (resetBlock s).laneW1 = State.reset.laneW1 := rfl
@[simp] theorem resetBlock_laneW2 : (resetBlock s).laneW2 = State.reset.laneW2 := rfl
@[simp] theorem resetBlock_laneW3 : (resetBlock s).laneW3 = State.reset.laneW3 := rfl
@[simp] theorem resetBlock_lat : (resetBlock s).lat = State.reset.lat := rfl
@[simp] theorem resetBlock_seq : (resetBlock s).seq = State.reset.seq := rfl
@[simp] theorem resetBlock_vop : (resetBlock s).vop = State.reset.vop := rfl
@[simp] theorem resetBlock_sv : (resetBlock s).sv = State.reset.sv := rfl
@[simp] theorem resetBlock_sh : (resetBlock s).sh = State.reset.sh := rfl
@[simp] theorem resetBlock_vr : (resetBlock s).vr = State.reset.vr := rfl
@[simp] theorem resetBlock_ssv : (resetBlock s).ssv = State.reset.ssv := rfl
@[simp] theorem resetBlock_ssh : (resetBlock s).ssh = State.reset.ssh := rfl
@[simp] theorem resetBlock_mem : (resetBlock s).mem = s.mem := rfl
@[simp] theorem resetBlock_memMap : (resetBlock s).memMap = s.memMap := rfl
@[simp] theorem resetBlock_inputs : (resetBlock s).inputs = s.inputs := rfl
@[simp] theorem resetBlock_busData : (resetBlock s).busData = s.busData := rfl
@[simp] theorem resetBlock_draws : (resetBlock s).draws = s.draws := rfl
@[simp] theorem resetBlock_racedIn : (resetBlock s).racedIn = s.racedIn := rfl
@[simp] theorem resetBlock_racedOut : (resetBlock s).racedOut = s.racedOut := rfl
@[simp] theorem resetBlock_unread : (resetBlock s).unread = s.unread := rfl

/-! ### `handOver`: memory, `draws` and what it holds of races; nothing else -/

@[simp] theorem handOver_phase : (handOver s).phase = s.phase := by
  unfold handOver
  split <;> rfl

@[simp] theorem handOver_status : (handOver s).status = s.status := by
  unfold handOver
  split <;> rfl

@[simp] theorem handOver_faultAddr : (handOver s).faultAddr = s.faultAddr := by
  unfold handOver
  split <;> rfl

@[simp] theorem handOver_bpp : (handOver s).bpp = s.bpp := by
  unfold handOver
  split <;> rfl

@[simp] theorem handOver_width : (handOver s).width = s.width := by
  unfold handOver
  split <;> rfl

@[simp] theorem handOver_height : (handOver s).height = s.height := by
  unfold handOver
  split <;> rfl

@[simp] theorem handOver_inBase : (handOver s).inBase = s.inBase := by
  unfold handOver
  split <;> rfl

@[simp] theorem handOver_outBase : (handOver s).outBase = s.outBase := by
  unfold handOver
  split <;> rfl

@[simp] theorem handOver_laneB0 : (handOver s).laneB0 = s.laneB0 := by
  unfold handOver
  split <;> rfl

@[simp] theorem handOver_laneB1 : (handOver s).laneB1 = s.laneB1 := by
  unfold handOver
  split <;> rfl

@[simp] theorem handOver_laneW0 : (handOver s).laneW0 = s.laneW0 := by
  unfold handOver
  split <;> rfl

@[simp] theorem handOver_laneW1 : (handOver s).laneW1 = s.laneW1 := by
  unfold handOver
  split <;> rfl

@[simp] theorem handOver_laneW2 : (handOver s).laneW2 = s.laneW2 := by
  unfold handOver
  split <;> rfl

@[simp] theorem handOver_laneW3 : (handOver s).laneW3 = s.laneW3 := by
  unfold handOver
  split <;> rfl

@[simp] theorem handOver_lat : (handOver s).lat = s.lat := by
  unfold handOver
  split <;> rfl

@[simp] theorem handOver_seq : (handOver s).seq = s.seq := by
  unfold handOver
  split <;> rfl

@[simp] theorem handOver_vop : (handOver s).vop = s.vop := by
  unfold handOver
  split <;> rfl

@[simp] theorem handOver_sv : (handOver s).sv = s.sv := by
  unfold handOver
  split <;> rfl

@[simp] theorem handOver_sh : (handOver s).sh = s.sh := by
  unfold handOver
  split <;> rfl

@[simp] theorem handOver_vr : (handOver s).vr = s.vr := by
  unfold handOver
  split <;> rfl

@[simp] theorem handOver_ssv : (handOver s).ssv = s.ssv := by
  unfold handOver
  split <;> rfl

@[simp] theorem handOver_ssh : (handOver s).ssh = s.ssh := by
  unfold handOver
  split <;> rfl

@[simp] theorem handOver_memMap : (handOver s).memMap = s.memMap := by
  unfold handOver
  split <;> rfl

@[simp] theorem handOver_inputs : (handOver s).inputs = s.inputs := by
  unfold handOver
  split <;> rfl

@[simp] theorem handOver_busData : (handOver s).busData = s.busData := by
  unfold handOver
  split <;> rfl

@[simp] theorem handOver_racedIn : (handOver s).racedIn = [] := by
  unfold handOver
  split <;> rfl

@[simp] theorem handOver_racedOut : (handOver s).racedOut = [] := by
  unfold handOver
  split
  · assumption
  · rfl

@[simp] theorem handOver_unread : (handOver s).unread = [] := by
  unfold handOver
  split <;> rfl

/-- Without a raced output byte, the hand-over only forgets the windows and the raced input bytes. -/
theorem handOver_of_none (h : s.racedOut = []) :
    handOver s = { s with unread := [], racedIn := [] } := by
  unfold handOver
  rw [h]

/-! ### `finish` and `busFailure`: the end of the command -/

@[simp] theorem finish_phase : (finish s).phase = .idle := rfl
@[simp] theorem finish_status : (finish s).status = statusDone := rfl
@[simp] theorem finish_faultAddr : (finish s).faultAddr = s.faultAddr := rfl
@[simp] theorem finish_bpp : (finish s).bpp = s.bpp := rfl
@[simp] theorem finish_width : (finish s).width = s.width := rfl
@[simp] theorem finish_height : (finish s).height = s.height := rfl
@[simp] theorem finish_inBase : (finish s).inBase = s.inBase := rfl
@[simp] theorem finish_outBase : (finish s).outBase = s.outBase := rfl
@[simp] theorem finish_laneB0 : (finish s).laneB0 = s.laneB0 := rfl
@[simp] theorem finish_laneB1 : (finish s).laneB1 = s.laneB1 := rfl
@[simp] theorem finish_laneW0 : (finish s).laneW0 = s.laneW0 := rfl
@[simp] theorem finish_laneW1 : (finish s).laneW1 = s.laneW1 := rfl
@[simp] theorem finish_laneW2 : (finish s).laneW2 = s.laneW2 := rfl
@[simp] theorem finish_laneW3 : (finish s).laneW3 = s.laneW3 := rfl
@[simp] theorem finish_lat : (finish s).lat = s.lat := rfl
@[simp] theorem finish_seq : (finish s).seq = s.seq := rfl
@[simp] theorem finish_vop : (finish s).vop = s.vop := rfl
@[simp] theorem finish_sv : (finish s).sv = s.sv := rfl
@[simp] theorem finish_sh : (finish s).sh = s.sh := rfl
@[simp] theorem finish_vr : (finish s).vr = s.vr := rfl
@[simp] theorem finish_ssv : (finish s).ssv = s.ssv := rfl
@[simp] theorem finish_ssh : (finish s).ssh = s.ssh := rfl
@[simp] theorem finish_mem : (finish s).mem = s.mem := rfl
@[simp] theorem finish_memMap : (finish s).memMap = s.memMap := rfl
@[simp] theorem finish_inputs : (finish s).inputs = s.inputs := rfl
@[simp] theorem finish_busData : (finish s).busData = s.busData := rfl
@[simp] theorem finish_draws : (finish s).draws = s.draws := rfl
@[simp] theorem finish_racedIn : (finish s).racedIn = s.racedIn := rfl
@[simp] theorem finish_racedOut : (finish s).racedOut = s.racedOut := rfl
@[simp] theorem finish_unread : (finish s).unread = s.unread := rfl

@[simp] theorem busFailure_phase (a : Int) : (busFailure s a).phase = .idle := rfl
@[simp] theorem busFailure_status (a : Int) : (busFailure s a).status = statusError .busError := rfl
@[simp] theorem busFailure_faultAddr (a : Int) : (busFailure s a).faultAddr = BitVec.ofInt 32 a := rfl
@[simp] theorem busFailure_bpp (a : Int) : (busFailure s a).bpp = s.bpp := rfl
@[simp] theorem busFailure_width (a : Int) : (busFailure s a).width = s.width := rfl
@[simp] theorem busFailure_height (a : Int) : (busFailure s a).height = s.height := rfl
@[simp] theorem busFailure_inBase (a : Int) : (busFailure s a).inBase = s.inBase := rfl
@[simp] theorem busFailure_outBase (a : Int) : (busFailure s a).outBase = s.outBase := rfl
@[simp] theorem busFailure_laneB0 (a : Int) : (busFailure s a).laneB0 = s.laneB0 := rfl
@[simp] theorem busFailure_laneB1 (a : Int) : (busFailure s a).laneB1 = s.laneB1 := rfl
@[simp] theorem busFailure_laneW0 (a : Int) : (busFailure s a).laneW0 = s.laneW0 := rfl
@[simp] theorem busFailure_laneW1 (a : Int) : (busFailure s a).laneW1 = s.laneW1 := rfl
@[simp] theorem busFailure_laneW2 (a : Int) : (busFailure s a).laneW2 = s.laneW2 := rfl
@[simp] theorem busFailure_laneW3 (a : Int) : (busFailure s a).laneW3 = s.laneW3 := rfl
@[simp] theorem busFailure_lat (a : Int) : (busFailure s a).lat = s.lat := rfl
@[simp] theorem busFailure_seq (a : Int) : (busFailure s a).seq = s.seq := rfl
@[simp] theorem busFailure_vop (a : Int) : (busFailure s a).vop = s.vop := rfl
@[simp] theorem busFailure_sv (a : Int) : (busFailure s a).sv = s.sv := rfl
@[simp] theorem busFailure_sh (a : Int) : (busFailure s a).sh = s.sh := rfl
@[simp] theorem busFailure_vr (a : Int) : (busFailure s a).vr = s.vr := rfl
@[simp] theorem busFailure_ssv (a : Int) : (busFailure s a).ssv = s.ssv := rfl
@[simp] theorem busFailure_ssh (a : Int) : (busFailure s a).ssh = s.ssh := rfl
@[simp] theorem busFailure_mem (a : Int) : (busFailure s a).mem = s.mem := rfl
@[simp] theorem busFailure_memMap (a : Int) : (busFailure s a).memMap = s.memMap := rfl
@[simp] theorem busFailure_inputs (a : Int) : (busFailure s a).inputs = s.inputs := rfl
@[simp] theorem busFailure_busData (a : Int) : (busFailure s a).busData = s.busData := rfl
@[simp] theorem busFailure_draws (a : Int) : (busFailure s a).draws = s.draws := rfl
@[simp] theorem busFailure_racedIn (a : Int) : (busFailure s a).racedIn = s.racedIn := rfl
@[simp] theorem busFailure_racedOut (a : Int) : (busFailure s a).racedOut = s.racedOut := rfl
@[simp] theorem busFailure_unread (a : Int) : (busFailure s a).unread = s.unread := rfl

end Sys2Proof.Machine
end

