-- ==== Sys2Proof/Laws/Ops.lean ====
section
/-! SUPPORT. One lemma per shared operation that says what it can do: where memory responds, the first failing
access, the writes of a unit, the hand-over of the windows, STATUS polled, and a command word issued. -/

namespace Sys2Proof.Machine

/-! ### Where memory responds -/

/-- `memOK` reads only the memory map. -/
theorem memOK_congr {s t : State} (h : t.memMap = s.memMap) (a : Int) : memOK t a = memOK s a := by
  simp [memOK, h]

/-- Memory responds only inside the address space (20 R60). -/
theorem memOK_inSpace {s : State} {a : Int} (h : memOK s a = true) :
    0 ≤ a ∧ a < (Config.spaceSize : Int) := by
  simp only [memOK, Bool.and_eq_true, decide_eq_true_eq] at h
  exact h.1

/-- The address of a responding access, as a key of memory. -/
theorem memOK_toNat {s : State} {a : Int} (h : memOK s a = true) :
    (a.toNat : Int) = a ∧ a.toNat < Config.spaceSize := by
  have := memOK_inSpace h
  omega

/-! ### The first failing access -/

/-- No access fails exactly when memory responds at every address. -/
theorem firstFailing_eq_none {s : State} {l : List Int} :
    firstFailing s l = none ↔ ∀ a ∈ l, memOK s a = true := by
  simp [firstFailing, List.find?_eq_none]

/-- The first failing access: memory responds at every address before it and not at it (60 R217). -/
theorem firstFailing_eq_some {s : State} {l : List Int} {a : Int} :
    firstFailing s l = some a ↔
      memOK s a = false ∧ ∃ before after, l = before ++ a :: after ∧
        ∀ x ∈ before, memOK s x = true := by
  simp [firstFailing, List.find?_eq_some_iff_append]

/-- `firstFailing` reads only the memory map. -/
theorem firstFailing_congr {s t : State} (h : t.memMap = s.memMap) (l : List Int) :
    firstFailing t l = firstFailing s l := by
  simp only [firstFailing, memOK_congr h]

/-! ### The writes of a unit -/

/-- The writes change memory and nothing else. -/
theorem storeBytes_frame (l : List (Int × Byte)) : ∀ s : State,
    (storeBytes s l).1 = setMem s (storeBytes s l).1.mem := by
  induction l with
  | nil => intro s; rfl
  | cons p rest ih =>
    intro s
    obtain ⟨a, b⟩ := p
    unfold storeBytes
    split
    · rw [ih]; rfl
    · rfl

/-- The writes keep the canonical form. -/
theorem storeBytes_wf (l : List (Int × Byte)) : ∀ {s : State}, Memory.wf s.mem = true →
    Memory.wf (storeBytes s l).1.mem = true := by
  induction l with
  | nil => intro s h; exact h
  | cons p rest ih =>
    intro s h
    obtain ⟨a, b⟩ := p
    unfold storeBytes
    split
    · exact ih (write_wf h _ _)
    · exact h

/-- The writes list only addresses of the space. -/
theorem storeBytes_inSpace (l : List (Int × Byte)) : ∀ {s : State}, Memory.inSpace s.mem = true →
    Memory.inSpace (storeBytes s l).1.mem = true := by
  induction l with
  | nil => intro s h; exact h
  | cons p rest ih =>
    intro s h
    obtain ⟨a, b⟩ := p
    unfold storeBytes
    split
    · rename_i ha; exact ih (write_inSpace h (memOK_toNat ha).2 _)
    · exact h

/-- The writes change no byte but those they address. -/
theorem storeBytes_read_other (l : List (Int × Byte)) : ∀ {s : State}, Memory.wf s.mem = true →
    ∀ x : Nat, (∀ p ∈ l, p.1.toNat ≠ x) →
      Memory.read (storeBytes s l).1.mem x = Memory.read s.mem x := by
  induction l with
  | nil => intro s _ x _; rfl
  | cons p rest ih =>
    intro s h x hx
    obtain ⟨a, b⟩ := p
    unfold storeBytes
    split
    · rw [ih (write_wf h _ _) x fun q hq => hx q (by simp [hq])]
      have : x ≠ a.toNat := fun hc => hx (a, b) (by simp) hc.symm
      show Memory.read (Memory.write s.mem a.toNat b) x = _
      rw [read_write h, if_neg this]
    · rfl

/-- With memory behind every address, every write is done. -/
theorem storeBytes_none {l : List (Int × Byte)} : ∀ {s : State},
    (storeBytes s l).2 = none ↔ ∀ p ∈ l, memOK s p.1 = true := by
  induction l with
  | nil => intro s; simp [storeBytes]
  | cons p rest ih =>
    intro s
    obtain ⟨a, b⟩ := p
    unfold storeBytes
    split
    · rename_i ha
      rw [ih]
      simp [ha, memOK_congr (s := s) (t := storeByte s a.toNat b) rfl]
    · rename_i ha
      simp [ha]

/-- Every byte addressed, once each and with memory behind it, holds what was written. -/
theorem storeBytes_read_written (l : List (Int × Byte)) : ∀ {s : State}, Memory.wf s.mem = true →
    (∀ p ∈ l, memOK s p.1 = true) → (l.map Prod.fst).Nodup →
    ∀ p ∈ l, Memory.read (storeBytes s l).1.mem p.1.toNat = p.2 := by
  induction l with
  | nil => intro s _ _ _ p hp; simp at hp
  | cons q rest ih =>
    intro s h hok hnd p hp
    obtain ⟨a, b⟩ := q
    have ha : memOK s a = true := hok (a, b) (by simp)
    simp only [List.map_cons, List.nodup_cons] at hnd
    have hrest : ∀ q ∈ rest, memOK (storeByte s a.toNat b) q.1 = true := fun q hq =>
      (memOK_congr (s := s) (t := storeByte s a.toNat b) rfl _).trans (hok q (by simp [hq]))
    unfold storeBytes
    rw [if_pos ha]
    rcases List.mem_cons.mp hp with rfl | hp
    · rw [storeBytes_read_other rest (write_wf h _ _)]
      · show Memory.read (Memory.write s.mem a.toNat b) a.toNat = b
        rw [read_write h, if_pos rfl]
      · intro q hq heq
        have h1 := memOK_toNat (hok q (by simp [hq]))
        have h2 := memOK_toNat ha
        exact hnd.1 (List.mem_map.mpr ⟨q, hq, by show q.1 = a; omega⟩)
    · exact ih (write_wf h _ _) hrest hnd.2 p hp

/-- The writes up to a failing one: those before it are done, it and those after it are not (60 R220). -/
theorem storeBytes_fails {before after : List (Int × Byte)} {a : Int} {b : Byte} : ∀ {s : State},
    (∀ p ∈ before, memOK s p.1 = true) → memOK s a = false →
    storeBytes s (before ++ (a, b) :: after) = ((storeBytes s before).1, some a) := by
  induction before with
  | nil => intro s _ ha; simp [storeBytes, ha]
  | cons p rest ih =>
    intro s hok ha
    obtain ⟨x, y⟩ := p
    have hx : memOK s x = true := hok (x, y) (by simp)
    simp only [List.cons_append, storeBytes, hx, if_true]
    exact ih (fun q hq => (memOK_congr (s := s) (t := storeByte s x.toNat y) rfl _).trans
      (hok q (by simp [hq]))) ((memOK_congr (s := s) (t := storeByte s x.toNat y) rfl _).trans ha)

/-! ### The hand-over of the windows -/

/-- The hand-over keeps the canonical form. -/
theorem handOver_wf {s : State} (h : Memory.wf s.mem = true) :
    Memory.wf (handOver s).mem = true := by
  unfold handOver
  split
  · exact h
  · exact scramble_wf _ _ _ h

/-- The hand-over of raced addresses of the space lists only addresses of the space. -/
theorem handOver_inSpace {s : State} (hr : ∀ a ∈ s.racedOut, a < Config.spaceSize)
    (h : Memory.inSpace s.mem = true) : Memory.inSpace (handOver s).mem = true := by
  unfold handOver
  split
  · exact h
  · rename_i a rest heq
    exact scramble_inSpace _ _ _ (fun x hx => hr x (heq ▸ hx)) h

/-- The hand-over changes no byte but the raced output bytes. -/
theorem handOver_read_other {s : State} (h : Memory.wf s.mem = true) {x : Nat}
    (hx : x ∉ s.racedOut) : Memory.read (handOver s).mem x = Memory.read s.mem x := by
  unfold handOver
  split
  · rfl
  · rename_i a rest heq
    exact scramble_read_other _ _ _ h x (heq ▸ hx)

/-- The hand-over leaves a free byte at each raced output byte (20 R76). -/
theorem handOver_read_raced {s : State} (h : Memory.wf s.mem = true) {x : Nat} (hx : x ∈ s.racedOut) :
    ∃ d k, Memory.read (handOver s).mem x = Config.freeByte d k := by
  unfold handOver
  split
  · rename_i heq; rw [heq] at hx; exact absurd hx (List.not_mem_nil)
  · rename_i a rest heq
    exact ⟨_, scramble_read_listed _ _ _ h x (heq ▸ hx)⟩

/-- Without a raced output byte, the hand-over leaves memory alone. -/
theorem handOver_mem_of_none {s : State} (h : s.racedOut = []) : (handOver s).mem = s.mem := by
  rw [handOver_of_none s h]

/-- Without a raced output byte, the hand-over draws nothing. -/
theorem handOver_draws_of_none {s : State} (h : s.racedOut = []) : (handOver s).draws = s.draws := by
  rw [handOver_of_none s h]

/-! ### A command word issued -/

/-- BUSY reads 1 exactly while a command runs (10 R36). -/
theorem busy_iff {s : State} : busy s = true ↔ s.phase ≠ .idle := by
  cases h : s.phase <;> simp [busy, h]

/-- BUSY reads 0 exactly when the block is idle (10 R36). -/
theorem not_busy_iff {s : State} : busy s = false ↔ s.phase = .idle := by
  cases h : s.phase <;> simp [busy, h]

/-- A poll that shows BUSY = 1 changes nothing but what the host read. -/
theorem pollStatus_busy {s : State} (h : s.phase ≠ .idle) :
    pollStatus s = { s with busData := statusWord s } := by
  simp [pollStatus, busy_iff.mpr h]

/-- A poll that shows BUSY = 0 hands the windows over. -/
theorem pollStatus_idle {s : State} (h : s.phase = .idle) :
    pollStatus s = { handOver s with busData := statusWord s } := by
  simp [pollStatus, not_busy_iff.mpr h]

/-- Idle, the block accepts at once (10 R24). -/
theorem issue_idle {s : State} (h : s.phase = .idle) (effect : State → State) :
    issue s effect = effect (acceptClear s) := by
  simp [issue, not_busy_iff.mpr h]

/-- Busy, the block drops the command (10 R24, 70 R247). -/
theorem issue_busy {s : State} (h : s.phase ≠ .idle) (effect : State → State) :
    issue s effect = s := by
  simp [issue, busy_iff.mpr h]

/-- A unit's writes, then its advance: done when memory responds everywhere (41 R136, 43 R181). -/
theorem storeThen_done {s : State} {l : List (Int × Byte)} (h : ∀ p ∈ l, memOK s p.1 = true)
    (adv : State → State) : storeThen s l adv = adv (storeBytes s l).1 := by
  have := storeBytes_none.mpr h
  unfold storeThen
  split <;> simp_all

/-- All a unit's writes can do: one fails and ends the command, or all are done and the advance follows; the state
before either differs from `s` in memory only. -/
theorem storeThen_cases (s : State) (l : List (Int × Byte)) (adv : State → State) :
    (∃ a, (storeBytes s l).2 = some a ∧
      storeThen s l adv = busFailure (setMem s (storeBytes s l).1.mem) a) ∨
    ((storeBytes s l).2 = none ∧ storeThen s l adv = adv (setMem s (storeBytes s l).1.mem)) := by
  have hf := storeBytes_frame l s
  rw [← hf]
  unfold storeThen
  split
  · rename_i s' a h; exact Or.inl ⟨a, by rw [h], by rw [h]⟩
  · rename_i s' h; exact Or.inr ⟨by rw [h], by rw [h]⟩

/-- A unit's writes, ended by a failing one (60 R217, R220). -/
theorem storeThen_fails {s : State} {before after : List (Int × Byte)} {a : Int} {b : Byte}
    (h : ∀ p ∈ before, memOK s p.1 = true) (ha : memOK s a = false) (adv : State → State) :
    storeThen s (before ++ (a, b) :: after) adv = busFailure (storeBytes s before).1 a := by
  simp [storeThen, storeBytes_fails h ha]

end Sys2Proof.Machine
end

