-- ==== Sys2Proof/Laws/Operands.lean ====
section
/-! SUPPORT. What the acceptance checks mean (60 R218), where a run starts, and where sample addresses lie: inside
their window and never twice the same (20 R63, 40 R111, R117). -/

namespace Sys2Proof.Machine

/-! ### Acceptance -/

/-- The checks pass exactly when the depth is 24 and the operands are legal (60 R218). -/
theorem checkDetectOperands_eq_none {s : State} :
    checkDetectOperands s = none ↔ s.bpp = 24#32 ∧ LatchLegal (latched s) := by
  have hbpp : s.bpp = 24#32 ↔ s.bpp.toNat = 24 := by
    constructor
    · intro h; rw [h]; rfl
    · intro h; exact BitVec.eq_of_toNat_eq h
  rw [hbpp]
  have hL : windowLength (latched s) = 3 * s.width.toNat * s.height.toNat := rfl
  have hlegal : LatchLegal (latched s) ↔ 3 ≤ s.width.toNat ∧ 3 ≤ s.height.toNat ∧
      s.inBase.toNat + windowLength (latched s) ≤ 2 ^ 32 ∧
      s.outBase.toNat + windowLength (latched s) ≤ 2 ^ 32 ∧
      (s.outBase.toNat + windowLength (latched s) ≤ s.inBase.toNat ∨
        s.inBase.toNat + windowLength (latched s) ≤ s.outBase.toNat) :=
    ⟨fun h => ⟨h.1, h.2, h.3, h.4, h.5⟩, fun h => ⟨h.1, h.2.1, h.2.2.1, h.2.2.2.1, h.2.2.2.2⟩⟩
  rw [hlegal, checkDetectOperands, ← hL]
  have hb : Config.bppRequired = 24 := rfl
  have hm : Config.minDim = 3 := rfl
  have hs : Config.spaceSize = 2 ^ 32 := rfl
  repeat' split
  all_goals simp only [reduceCtorEq, false_iff, true_iff]
  all_goals omega

/-- The checks read five registers and nothing else (30 R95). -/
theorem checkDetectOperands_congr {s t : State} (hb : t.bpp = s.bpp) (hw : t.width = s.width)
    (hh : t.height = s.height) (hi : t.inBase = s.inBase) (ho : t.outBase = s.outBase) :
    checkDetectOperands t = checkDetectOperands s := by
  simp [checkDetectOperands, hb, hw, hh, hi, ho]

/-- Clearing STATUS and FAULT_ADDR does not touch what the checks read. -/
@[simp] theorem checkDetectOperands_acceptClear (s : State) :
    checkDetectOperands (acceptClear s) = checkDetectOperands s := rfl

/-- Clearing STATUS and FAULT_ADDR does not touch what is latched. -/
@[simp] theorem latched_acceptClear (s : State) : latched (acceptClear s) = latched s := rfl

/-- All a start can do: refuse with the failed check's code, or latch and begin the run (41 R130, 43 R189). -/
theorem startDetect_cases (ph : Phase) (n : Nat) (s : State) :
    (∃ e, checkDetectOperands s = some e ∧ startDetect ph n s = raiseError s e 0#32) ∨
    (checkDetectOperands s = none ∧ startDetect ph n s =
      { openWindows s (latched s) with lat := latched s, phase := ph, seq := ⟨0, 1, 1, n⟩ }) := by
  unfold startDetect
  split
  · rename_i e h; exact Or.inl ⟨e, h, rfl⟩
  · rename_i h; exact Or.inr ⟨h, rfl⟩

/-! ### Addresses -/

/-- A sample of the planes lies in its window (20 R63, R64, 40 R117). -/
theorem sampleAddr_bounds (base : Word) (l : Latch) {p : Nat} {r c : Int} (hp : p < 3) (hr : 0 ≤ r)
    (hr' : r < l.h.toNat) (hc : 0 ≤ c) (hc' : c < l.w.toNat) :
    (base.toNat : Int) ≤ sampleAddr base l p r c ∧
      sampleAddr base l p r c < base.toNat + windowLength l := by
  obtain ⟨r, rfl⟩ := Int.eq_ofNat_of_zero_le hr
  obtain ⟨c, rfl⟩ := Int.eq_ofNat_of_zero_le hc
  have hr'' : r + 1 ≤ l.h.toNat := by omega
  have hc'' : c + 1 ≤ l.w.toNat := by omega
  have h1 : r * l.w.toNat + c + 1 ≤ l.h.toNat * l.w.toNat := by
    calc r * l.w.toNat + c + 1 ≤ r * l.w.toNat + l.w.toNat := by omega
      _ = (r + 1) * l.w.toNat := by ring
      _ ≤ l.h.toNat * l.w.toNat := Nat.mul_le_mul_right _ hr''
  have h2 : p * (l.w.toNat * l.h.toNat) ≤ 2 * (l.w.toNat * l.h.toNat) :=
    Nat.mul_le_mul_right _ (by omega)
  have h3 : sampleAddr base l p r c =
      ((base.toNat + p * (l.w.toNat * l.h.toNat) + (r * l.w.toNat + c) : Nat) : Int) := by
    simp only [sampleAddr]; push_cast; ring
  have h4 : windowLength l = 3 * (l.w.toNat * l.h.toNat) := by simp [windowLength, Nat.mul_assoc]
  have h5 : l.h.toNat * l.w.toNat = l.w.toNat * l.h.toNat := Nat.mul_comm _ _
  rw [h3, h4]
  omega

/-- Two different samples of the planes have different addresses (20 R63). -/
theorem sampleAddr_injective (base : Word) (l : Latch) {p r c p' r' c' : Nat} (hr : r < l.h.toNat)
    (hc : c < l.w.toNat) (hr' : r' < l.h.toNat) (hc' : c' < l.w.toNat)
    (h : sampleAddr base l p r c = sampleAddr base l p' r' c') : p = p' ∧ r = r' ∧ c = c' := by
  have hw : 0 < l.w.toNat := by omega
  have hh : 0 < l.h.toNat := by omega
  have hN : c + l.w.toNat * (r + l.h.toNat * p) = c' + l.w.toNat * (r' + l.h.toNat * p') := by
    have : (base.toNat : Int) + ((c + l.w.toNat * (r + l.h.toNat * p) : Nat) : Int) =
        base.toNat + ((c' + l.w.toNat * (r' + l.h.toNat * p') : Nat) : Int) := by
      simp only [sampleAddr] at h
      push_cast
      linear_combination h
    omega
  have hcc : c = c' := by
    have := congrArg (· % l.w.toNat) hN
    simpa [Nat.add_mul_mod_self_left, Nat.mod_eq_of_lt hc, Nat.mod_eq_of_lt hc'] using this
  have hq : r + l.h.toNat * p = r' + l.h.toNat * p' := by
    subst hcc
    exact Nat.eq_of_mul_eq_mul_left hw (by omega)
  have hrr : r = r' := by
    have := congrArg (· % l.h.toNat) hq
    simpa [Nat.add_mul_mod_self_left, Nat.mod_eq_of_lt hr, Nat.mod_eq_of_lt hr'] using this
  subst hcc hrr
  exact ⟨Nat.eq_of_mul_eq_mul_left hh (by omega), rfl, rfl⟩

/-- Row and column offsets are -1, 0 or 1 (40 R113). -/
theorem offsets_small (x : Nbr) :
    -1 ≤ rowOffset x ∧ rowOffset x ≤ 1 ∧ -1 ≤ colOffset x ∧ colOffset x ≤ 1 := by
  cases x <;> decide

/-- Every neighbour of an interior pixel lies in the input window (40 R117, 43 R192). -/
theorem neighbour_inWindow {l : Latch} {p r c : Nat} (hi : Interior l p r c) (x : Nbr) :
    (l.inBase.toNat : Int) ≤ inAddr l p (r + rowOffset x) (c + colOffset x) ∧
      inAddr l p (r + rowOffset x) (c + colOffset x) < l.inBase.toNat + windowLength l := by
  have ho := offsets_small x
  obtain ⟨hp, h1, h2, h3, h4⟩ := hi
  exact sampleAddr_bounds l.inBase l hp (by omega) (by omega) (by omega) (by omega)

/-- An interior pixel's output byte lies in the output window (40 R117, 43 R192). -/
theorem outAddr_inWindow {l : Latch} {p r c : Nat} (hi : Interior l p r c) :
    (l.outBase.toNat : Int) ≤ outAddr l p r c ∧ outAddr l p r c < l.outBase.toNat + windowLength l := by
  obtain ⟨hp, h1, h2, h3, h4⟩ := hi
  exact sampleAddr_bounds l.outBase l hp (by omega) (by omega) (by omega) (by omega)

end Sys2Proof.Machine
end

