-- ==== Sys2Proof/Laws/Scalar.lean ====
section
/-! SUPPORT. What a scalar unit can do (41 R136) and where it goes next (41 R137). -/

namespace Sys2Proof.Machine

/-- All a scalar unit's reads can do: the first failing one is reported and nothing is changed, or the accumulators
hold the sums of the nine samples (41 R136). -/
theorem scalarLoad_cases (s : State) :
    (∃ a, firstFailing s (scalarReads s) = some a ∧ scalarLoad s = (s, some a)) ∨
    ((∀ x, memOK s (nbrAddr s x) = true) ∧ scalarLoad s = (accumulate s (scalarSamples s), none)) := by
  unfold scalarLoad
  split
  · rename_i a h; exact Or.inl ⟨a, h, rfl⟩
  · rename_i h
    refine Or.inr ⟨fun x => ?_, rfl⟩
    exact firstFailing_eq_none.mp h _ (List.mem_map.mpr ⟨x, mem_allNbrs x, rfl⟩)

/-- With memory behind the nine samples, the reads succeed. -/
theorem scalarLoad_done {s : State} (h : ∀ x, memOK s (nbrAddr s x) = true) :
    scalarLoad s = (accumulate s (scalarSamples s), none) := by
  have : firstFailing s (scalarReads s) = none := by
    rw [firstFailing_eq_none]
    intro a ha
    obtain ⟨x, -, rfl⟩ := List.mem_map.mp ha
    exact h x
  simp [scalarLoad, this]

/-- The byte a scalar unit writes is the pixel function of its samples (41 R131). -/
theorem scalarStores_accumulate (s : State) (w : Win Byte) :
    scalarStores (accumulate s w) = [(outAddr s.lat s.seq.p s.seq.r s.seq.c, spx w)] := rfl

/-- Without a race, the samples are the neighbourhood in memory. -/
theorem scalarSamples_eq {s : State} (h : RaceFree s) :
    scalarSamples s = neighbourhood s.lat s.mem s.seq.p s.seq.r s.seq.c := by
  apply Win.ext_get
  intro x
  simp [scalarSamples, neighbourhood, blockRead, h.1, h.2, nbrAddr]

/-- The advance moves the sequencer or finishes, and touches nothing else (41 R137). -/
theorem scalarAdvance_cases (s : State) :
    (∃ q, scalarAdvance s = setSeq s q ∧
      (s.seq.c + 2 < s.lat.w.toNat ∧ q = ⟨s.seq.p, s.seq.r, s.seq.c + 1, 1⟩ ∨
        ¬ s.seq.c + 2 < s.lat.w.toNat ∧ s.seq.r + 2 < s.lat.h.toNat ∧
          q = ⟨s.seq.p, s.seq.r + 1, 1, 1⟩ ∨
        ¬ s.seq.c + 2 < s.lat.w.toNat ∧ ¬ s.seq.r + 2 < s.lat.h.toNat ∧ s.seq.p < 2 ∧
          q = ⟨s.seq.p + 1, 1, 1, 1⟩)) ∨
    (¬ s.seq.c + 2 < s.lat.w.toNat ∧ ¬ s.seq.r + 2 < s.lat.h.toNat ∧ ¬ s.seq.p < 2 ∧
      scalarAdvance s = finish s) := by
  unfold scalarAdvance
  split_ifs with h1 h2 h3
  · exact Or.inl ⟨_, rfl, Or.inl ⟨h1, rfl⟩⟩
  · exact Or.inl ⟨_, rfl, Or.inr (Or.inl ⟨h1, h2, rfl⟩)⟩
  · exact Or.inl ⟨_, rfl, Or.inr (Or.inr ⟨h1, h2, h3, rfl⟩)⟩
  · exact Or.inr ⟨h1, h2, h3, rfl⟩

/-- All a scalar unit can do: a read fails, the write fails, or the pixel is written and the sequencer advances
(41 R136, 60 R217). -/
theorem scalarUnit_cases (s : State) :
    (∃ a, firstFailing s (scalarReads s) = some a ∧ scalarUnit s = busFailure (nextDraw s) a) ∨
    ((∀ x, memOK s (nbrAddr s x) = true) ∧
      scalarUnit s =
        storeThen (accumulate (nextDraw s) (scalarSamples (nextDraw s)))
          [(outAddr s.lat s.seq.p s.seq.r s.seq.c, spx (scalarSamples (nextDraw s)))]
          scalarAdvance) := by
  rcases scalarLoad_cases (nextDraw s) with ⟨a, hf, hl⟩ | ⟨hok, hl⟩
  · exact Or.inl ⟨a, hf, by simp [scalarUnit, hl]⟩
  · exact Or.inr ⟨hok, by simp [scalarUnit, hl, scalarStores_accumulate]⟩

end Sys2Proof.Machine
end

