-- ==== Sys2Proof/Laws/Vector.lean ====
section
/-! SUPPORT. What a vector unit can do (43 R187), where it goes next (43 R188), and which chunks a row has
(43 R183). -/

namespace Sys2Proof.Machine

/-! ### The operand load -/

/-- The addresses and samples of an operand do not depend on the operands already loaded. -/
@[simp] theorem laneReads_vop (s : State) (v : Win (Oct Lane)) (x : Nbr) :
    laneReads (setVop s v) x = laneReads s x := rfl

/-- The second of two writes of the operand registers stands. -/
@[simp] theorem setVop_setVop (s : State) (v w : Win (Oct Lane)) : setVop (setVop s v) w = setVop s w := rfl

@[simp] theorem laneSamples_vop (s : State) (v : Win (Oct Lane)) (x : Nbr) :
    laneSamples (setVop s v) x = laneSamples s x := rfl

/-- The load changes the operand registers and nothing else. -/
theorem loadOperands_frame (l : List Nbr) : ∀ s : State,
    (loadOperands s l).1 = setVop s (loadOperands s l).1.vop := by
  induction l with
  | nil => intro s; rfl
  | cons x rest ih =>
    intro s
    unfold loadOperands
    split
    · rfl
    · rw [ih]; rfl

/-- With memory behind every read, each listed operand holds its widened samples (43 R177). -/
theorem loadOperands_done (l : List Nbr) : ∀ s : State,
    (∀ x ∈ l, ∀ a ∈ laneReads s x, memOK s a = true) →
    loadOperands s l =
      (setVop s (Win.ofFn fun y =>
        if y ∈ l then widenBytes (laneSamples s y) else s.vop.get y), none) := by
  induction l with
  | nil =>
    intro s _
    have : (Win.ofFn fun y => s.vop.get y) = s.vop := Win.ext_get fun x => by simp
    simp only [List.not_mem_nil, if_false, this]
    rfl
  | cons x rest ih =>
    intro s h
    have hx : firstFailing s (laneReads s x) = none := firstFailing_eq_none.mpr (h x (by simp))
    have hrest : ∀ y ∈ rest, ∀ a ∈ laneReads (setVop s (s.vop.set x (widenBytes (laneSamples s x)))) y,
        memOK (setVop s (s.vop.set x (widenBytes (laneSamples s x)))) a = true :=
      fun y hy a ha => h y (by simp [hy]) a ha
    unfold loadOperands
    rw [hx]
    simp only
    rw [ih _ hrest, setVop_setVop]
    congr 2
    apply Win.ext_get
    intro y
    simp only [Win.get_ofFn, laneSamples_vop, List.mem_cons]
    by_cases h1 : y ∈ rest
    · simp [h1]
    · by_cases h2 : y = x
      · subst h2; simp [h1]
      · simp [h1, h2]

/-- The load fails at the first failing read, offset by offset, and otherwise succeeds (43 R177). -/
theorem loadOperands_snd (l : List Nbr) : ∀ s : State,
    (loadOperands s l).2 = firstFailing s (l.flatMap (laneReads s)) := by
  induction l with
  | nil => intro s; rfl
  | cons x rest ih =>
    intro s
    have happ : firstFailing s (laneReads s x ++ rest.flatMap (laneReads s)) =
        (firstFailing s (laneReads s x)).or (firstFailing s (rest.flatMap (laneReads s))) := by
      simp [firstFailing, List.find?_append]
    rw [List.flatMap_cons, happ]
    unfold loadOperands
    split
    · rename_i a h; simp [h]
    · rename_i h
      rw [ih, h, Option.none_or]
      rfl

/-- The state with every operand loaded and the chunk computed (43 R177 to R180). -/
def chunkDone (s : State) : State :=
  computeChunk (setVop s (Win.ofFn fun x => widenBytes (laneSamples s x)))

/-- All a vector unit's reads can do: the first failing one is reported and only operand registers are changed, or
SV, SH and VR hold the chunk's result (43 R187). -/
theorem vectorLoad_cases (s : State) :
    (∃ a v, firstFailing s (vectorReads s) = some a ∧ vectorLoad s = (setVop s v, some a)) ∨
    ((∀ x, ∀ j : Fin 8, j.val < s.seq.n → memOK s (nbrAddr s x + j.val) = true) ∧
      vectorLoad s = (chunkDone s, none)) := by
  have hsnd := loadOperands_snd allNbrs s
  cases hf : firstFailing s (vectorReads s) with
  | some a =>
    refine Or.inl ⟨a, (loadOperands s allNbrs).1.vop, rfl, ?_⟩
    have h2 : (loadOperands s allNbrs).2 = some a := hsnd.trans hf
    have : loadOperands s allNbrs = (setVop s (loadOperands s allNbrs).1.vop, some a) :=
      Prod.ext (loadOperands_frame allNbrs s) h2
    unfold vectorLoad
    rw [this]
    rfl
  | none =>
    have hok := firstFailing_eq_none.mp hf
    have hread : ∀ x ∈ allNbrs, ∀ a ∈ laneReads s x, memOK s a = true := fun x hx a ha =>
      hok a (List.mem_flatMap.mpr ⟨x, hx, ha⟩)
    refine Or.inr ⟨fun x j hj => hread x (mem_allNbrs x) _
      (List.mem_map.mpr ⟨j, (mem_activeLanes _ _).mpr hj, rfl⟩), ?_⟩
    unfold vectorLoad
    rw [loadOperands_done allNbrs s hread]
    simp [chunkDone]

/-- With memory behind every sample, the reads succeed. -/
theorem vectorLoad_done {s : State}
    (h : ∀ x, ∀ j : Fin 8, j.val < s.seq.n → memOK s (nbrAddr s x + j.val) = true) :
    vectorLoad s = (chunkDone s, none) := by
  rcases vectorLoad_cases s with ⟨a, v, hf, -⟩ | ⟨-, hl⟩
  · obtain ⟨hbad, b, t, hl, -⟩ := firstFailing_eq_some.mp hf
    have hmem : a ∈ vectorReads s := by rw [hl]; simp
    obtain ⟨x, -, hx⟩ := List.mem_flatMap.mp hmem
    obtain ⟨j, hj, rfl⟩ := List.mem_map.mp hx
    rw [h x j ((mem_activeLanes _ _).mp hj)] at hbad
    exact absurd hbad (by simp)
  · exact hl

/-- All a vector unit can do: a read fails, or the chunk's result is stored, up to a failing write, and the
sequencer advances (43 R187, 60 R217). -/
theorem vectorUnit_cases (s : State) :
    (∃ a v, firstFailing s (vectorReads s) = some a ∧
      vectorUnit s = busFailure (setVop (nextDraw s) v) a) ∨
    ((∀ x, ∀ j : Fin 8, j.val < s.seq.n → memOK s (nbrAddr s x + j.val) = true) ∧
      vectorUnit s =
        storeThen (chunkDone (nextDraw s)) (vectorStores (chunkDone (nextDraw s))) vectorAdvance) := by
  rcases vectorLoad_cases (nextDraw s) with ⟨a, v, hf, hl⟩ | ⟨hok, hl⟩
  · exact Or.inl ⟨a, v, hf, by simp [vectorUnit, hl]⟩
  · exact Or.inr ⟨hok, by simp [vectorUnit, hl]⟩

/-! ### The chunk sequence -/

/-- The advance moves the sequencer or finishes, and touches nothing else (43 R188). -/
theorem vectorAdvance_cases (s : State) :
    (∃ q, vectorAdvance s = setSeq s q ∧
      (s.seq.n = 8 ∧ s.seq.c + 10 ≤ s.lat.w.toNat ∧
          q = ⟨s.seq.p, s.seq.r, nextColumn s.lat.w.toNat s.seq.c, 8⟩ ∨
        ¬ (s.seq.n = 8 ∧ s.seq.c + 10 ≤ s.lat.w.toNat) ∧ s.seq.r + 2 < s.lat.h.toNat ∧
          q = ⟨s.seq.p, s.seq.r + 1, 1, firstLanes s.lat.w⟩ ∨
        ¬ (s.seq.n = 8 ∧ s.seq.c + 10 ≤ s.lat.w.toNat) ∧ ¬ s.seq.r + 2 < s.lat.h.toNat ∧ s.seq.p < 2 ∧
          q = ⟨s.seq.p + 1, 1, 1, firstLanes s.lat.w⟩)) ∨
    (¬ (s.seq.n = 8 ∧ s.seq.c + 10 ≤ s.lat.w.toNat) ∧ ¬ s.seq.r + 2 < s.lat.h.toNat ∧ ¬ s.seq.p < 2 ∧
      vectorAdvance s = finish s) := by
  unfold vectorAdvance
  split_ifs with h1 h2 h3
  · exact Or.inl ⟨_, rfl, Or.inl ⟨h1.1, h1.2, rfl⟩⟩
  · exact Or.inl ⟨_, rfl, Or.inr (Or.inl ⟨h1, h2, rfl⟩)⟩
  · exact Or.inl ⟨_, rfl, Or.inr (Or.inr ⟨h1, h2, h3, rfl⟩)⟩
  · exact Or.inr ⟨h1, h2, h3, rfl⟩

/-- Membership in CH(W) (43 R183): one masked chunk in a narrow row, otherwise full chunks at columns 1, 9, 17, ...
and the one that ends at the last interior column. -/
theorem mem_chunkList {w c n : Nat} :
    (c, n) ∈ chunkList w ↔
      (w < 10 ∧ c = 1 ∧ n = w - 2) ∨
      (10 ≤ w ∧ n = 8 ∧ (c % 8 = 1 ∧ c + 9 ≤ w ∨ c + 9 = w)) := by
  unfold chunkList
  simp only
  split_ifs with h h'
  · simp; omega
  all_goals
    simp only [List.append_nil, List.mem_append, List.mem_map, List.mem_range, List.mem_singleton,
      Prod.mk.injEq]
    constructor
  · rintro ⟨k, hk, rfl, rfl⟩
    omega
  · intro hc
    exact ⟨(c - 1) / 8, by omega, by omega, by omega⟩
  · rintro (⟨k, hk, rfl, rfl⟩ | ⟨rfl, rfl⟩) <;> omega
  · intro hc
    by_cases hm : c % 8 = 1
    · exact Or.inl ⟨(c - 1) / 8, by omega, by omega, by omega⟩
    · exact Or.inr (by omega)

/-- The first chunk of a row is in the list (43 R183, R188). -/
theorem firstChunk_mem {w : Word} (h : 3 ≤ w.toNat) : (1, firstLanes w) ∈ chunkList w.toNat := by
  rw [mem_chunkList]
  have hf : firstLanes w = min 8 (w.toNat - 2) := rfl
  omega

/-- The chunk after a full one is in the list (43 R188). -/
theorem nextColumn_mem {w c : Nat} (h : (c, 8) ∈ chunkList w) (hc : c + 10 ≤ w) :
    (nextColumn w c, 8) ∈ chunkList w := by
  rw [mem_chunkList] at h ⊢
  unfold nextColumn
  split_ifs <;> omega

/-- Every chunk's active lanes are interior columns (43 R191). -/
theorem chunk_inRow {w c n : Nat} (hw : 3 ≤ w) (h : (c, n) ∈ chunkList w) :
    1 ≤ c ∧ 1 ≤ n ∧ n ≤ 8 ∧ c + n + 1 ≤ w := by
  rw [mem_chunkList] at h
  omega

end Sys2Proof.Machine
end

