-- ==== Sys2Proof/Laws/Bus.lean ====
section
/-! SUPPORT. What one step can be: the oldest input served, or the block's turn. -/

namespace Sys2Proof.Machine

/-- With nothing waiting, a step is the block's turn. -/
theorem step_alone {s : State} (h : s.inputs = []) : step s = .next (blockStep s) := by
  simp [step, advance, h]

/-- With inputs waiting, a step serves the oldest. -/
theorem step_serves {s : State} {i : Input} {rest : List Input} (h : s.inputs = i :: rest) :
    step s = serve { s with inputs := rest } i := by
  simp [step, advance, h]

/-- The three things a block's turn can be. -/
theorem blockStep_idle {s : State} (h : s.phase = .idle) : blockStep s = s := by
  simp [blockStep, h]

theorem blockStep_runS {s : State} (h : s.phase = .runS) : blockStep s = scalarUnit s := by
  simp [blockStep, h]

theorem blockStep_runV {s : State} (h : s.phase = .runV) : blockStep s = vectorUnit s := by
  simp [blockStep, h]

/-- Every command answers with a next state: `issue` of what the accepted command does. -/
theorem exec_eq_issue (i : Instr) (s : State) :
    exec i s = .next (issue s (match i with
      | .detectS => startScalar
      | .detectV => startVector
      | .widen => widenCmd
      | .narrow => narrowCmd)) := by
  cases i <;> rfl

/-- Every word written to CMD answers with a next state. -/
theorem commandWrite_next (s : State) (w : Word) : ∃ t, commandWrite s w = .next t := by
  unfold commandWrite
  split
  · rename_i i _; exact ⟨_, exec_eq_issue i s⟩
  · exact ⟨_, rfl⟩

/-- A register's offset selects it (10 R23). -/
@[simp] theorem regAt_regOffset (r : Reg) : regAt (regOffset r) = some r := by
  cases r <;> decide

/-- An aligned 32-bit access at a register's offset is allowed (20 R62). -/
@[simp] theorem accessAllowed_regOffset (r : Reg) : accessAllowed .b32 (regOffset r) = true := by
  cases r <;> decide

/-- The placed command word is served next: the step is the CMD write itself. -/
theorem step_withFetchWord (s : State) (nbits w : Nat) :
    step (s.withFetchWord nbits w) = commandWrite s (tableWord nbits w) := by
  have h : serveRegWrite s .b32 (regOffset .cmd) (tableWord nbits w) =
      commandWrite s (tableWord nbits w) := by
    unfold serveRegWrite
    rw [accessAllowed_regOffset, if_pos rfl, regAt_regOffset]
  exact h

end Sys2Proof.Machine
end

