-- ==== Sys2Proof/Laws/Lanes.lean ====
section
/-! SUPPORT. The width functions inside their ranges (00 R10), the primitives on a lane (43 R171 to R175), and the
absolute value, division and shift on one integer (00 R11, 41 R133). -/

namespace Sys2Proof.Machine

/-! ### Narrowing in range -/

/-- A value that fits a lane reads back as itself (00 R10). -/
theorem toInt_u16 {v : Int} (h : -32768 ≤ v) (h' : v < 32768) : (u16 v).toInt = v := by
  rw [u16, BitVec.toInt_ofInt]
  exact Int.bmod_eq_of_le (by omega) (by omega)

/-- A value that fits 32 bits reads back as itself (00 R10). -/
theorem toInt_s32 {v : Int} (h : -2147483648 ≤ v) (h' : v < 2147483648) : (s32 v).toInt = v := by
  rw [s32, BitVec.toInt_ofInt]
  exact Int.bmod_eq_of_le (by omega) (by omega)

/-- A value that fits a byte is kept by `u8` (00 R10). -/
theorem toNat_u8 {v : Int} (h : 0 ≤ v) (h' : v < 256) : ((u8 v).toNat : Int) = v := by
  rw [u8, BitVec.toNat_ofInt]
  omega

/-- `u16` sees its argument modulo 2^16. -/
theorem u16_congr {v w : Int} (h : v % 65536 = w % 65536) : u16 v = u16 w := by
  apply BitVec.eq_of_toNat_eq
  rw [u16, u16, BitVec.toNat_ofInt, BitVec.toNat_ofInt]
  norm_num [h]

/-- The unsigned and the signed reading of a lane agree modulo 2^16 (00 R10). -/
theorem toNat_emod (x : Lane) : (x.toNat : Int) % 65536 = x.toInt % 65536 := by
  rw [BitVec.toInt_eq_toNat_bmod]
  exact Int.bmod_emod.symm

/-! ### The primitives on the signed reading of a lane -/

/-- LNEG on the signed reading (43 R171). -/
theorem lneg_get (x : Oct Lane) (j : Fin 8) : (lneg x).get j = u16 (-(x.get j).toInt) := by
  have := toNat_emod (x.get j)
  rw [lneg, Oct.get_map]
  exact u16_congr (by omega)

/-- LSHL1 on the signed reading (43 R172). -/
theorem lshl1_get (x : Oct Lane) (j : Fin 8) : (lshl1 x).get j = u16 (2 * (x.get j).toInt) := by
  have := toNat_emod (x.get j)
  rw [lshl1, Oct.get_map]
  exact u16_congr (by omega)

/-- LADD on the signed readings (43 R173). -/
theorem ladd_get (x y : Oct Lane) (j : Fin 8) :
    (ladd x y).get j = u16 ((x.get j).toInt + (y.get j).toInt) := by
  have h1 := toNat_emod (x.get j)
  have h2 := toNat_emod (y.get j)
  rw [ladd, Oct.get_zip]
  exact u16_congr (by omega)

/-- A lane is the narrowing of its signed reading (00 R10). -/
theorem u16_toInt (x : Lane) : u16 x.toInt = x := BitVec.ofInt_toInt

/-- The signed reading of a narrowed value agrees with it modulo 2^16. -/
theorem toInt_u16_emod (v : Int) : (u16 v).toInt % 65536 = v % 65536 := by
  rw [u16, BitVec.toInt_ofInt]
  exact Int.bmod_emod

/-- LNEG computes modulo 2^16 (43 R171). -/
theorem lneg_u16 {x : Oct Lane} {j : Fin 8} {v : Int} (h : x.get j = u16 v) :
    (lneg x).get j = u16 (-v) := by
  have := toInt_u16_emod v
  rw [lneg_get, h]
  exact u16_congr (by omega)

/-- LSHL1 computes modulo 2^16 (43 R172). -/
theorem lshl1_u16 {x : Oct Lane} {j : Fin 8} {v : Int} (h : x.get j = u16 v) :
    (lshl1 x).get j = u16 (2 * v) := by
  have := toInt_u16_emod v
  rw [lshl1_get, h]
  exact u16_congr (by omega)

/-- LADD computes modulo 2^16, so the order of the terms does not matter (43 R173, R178). -/
theorem ladd_u16 {x y : Oct Lane} {j : Fin 8} {v w : Int} (hx : x.get j = u16 v)
    (hy : y.get j = u16 w) : (ladd x y).get j = u16 (v + w) := by
  have h1 := toInt_u16_emod v
  have h2 := toInt_u16_emod w
  rw [ladd_get, hx, hy]
  exact u16_congr (by omega)

/-- LABS on the signed reading (43 R174). -/
theorem labs_get (x : Oct Lane) (j : Fin 8) : (labs x).get j = u16 (absInt (x.get j).toInt) := by
  rw [labs, Oct.get_map]; rfl

/-- LASR3 on the signed reading: floor(x / 8) (43 R175). -/
theorem lasr3_get (x : Oct Lane) (j : Fin 8) : (lasr3 x).get j = u16 ((x.get j).toInt / 8) := by
  rw [lasr3, Oct.get_map]
  show u16 (Int.fdiv _ (2 ^ 3)) = _
  rw [Int.fdiv_eq_ediv_of_nonneg _ (by norm_num)]
  norm_num
  rfl

/-- A widened byte reads, signed, as the byte's unsigned value (42 R150). -/
theorem toInt_zext16 (b : Byte) : (zext16 b).toInt = b.toNat := by
  have hb := b.isLt
  have hn : (zext16 b).toNat = b.toNat := by
    rw [zext16, BitVec.toNat_setWidth]; omega
  rw [BitVec.toInt_eq_toNat_of_lt (by omega), hn]

/-- A widened byte is the narrowing of the byte's unsigned value (42 R150). -/
theorem zext16_eq_u16 (b : Byte) : zext16 b = u16 b.toNat := by
  rw [← toInt_zext16, u16_toInt]

/-! ### One integer -/

/-- `abs` is the absolute value (00 R11). -/
theorem absInt_eq (n : Int) : absInt n = |n| := by
  unfold absInt
  split_ifs with h
  · rw [abs_of_neg h]
  · rw [abs_of_nonneg (by omega)]

/-- abs(tdiv(s, 8)) = floor(abs(s) / 8), by the sign of s (00 R11, 41 R133). -/
theorem absInt_tdiv (n : Int) : absInt (tdiv n 8) = absInt n / 8 := by
  unfold absInt tdiv
  rcases Int.le_total 0 n with h | h
  · rw [Int.tdiv_eq_ediv_of_nonneg h]
    split_ifs <;> omega
  · have : n.tdiv 8 = -((-n) / 8) := by
      rw [← Int.tdiv_eq_ediv_of_nonneg (by omega), Int.neg_tdiv, neg_neg]
    rw [this]
    split_ifs <;> omega

end Sys2Proof.Machine
end

