-- ==== Sys2Proof/Laws/PerInstr.lean ====
section
/-! SUPPORT. Statements made per command. Encoding: a command's fields are well formed, its word decodes to it, and
the opcode map has a row for it (30 R96, R101). -/

namespace Sys2Proof.Laws.Encoding

/-- A command's fields pass the checks, its word decodes to it, and its row of the opcode map selects its word. -/
def Statement (i : Instr) : Prop :=
  i.wellFormed = true ∧ decode (encode i) = .command i ∧
    ∃ row ∈ opcodeMap, row.instr = i ∧ row.selects (encode i) = true

theorem detectS : Statement .detectS := by
  unfold Statement; decide

theorem detectV : Statement .detectV := by
  unfold Statement; decide

theorem widen : Statement .widen := by
  unfold Statement; decide

theorem narrow : Statement .narrow := by
  unfold Statement; decide

end Sys2Proof.Laws.Encoding
end

