-- ==== Sys2Proof/Laws/Races.lean ====
section
/-! SUPPORT. Which bytes a race reaches (20 R76): the output bytes near a raced input byte, the racing write, and the
windows a DETECT command opens. -/

namespace Sys2Proof.Machine

/-- A member of joined lists is a member of one of them. -/
@[simp] theorem mem_joinRaced {new raced : List Nat} {a : Nat} :
    a ∈ joinRaced new raced ↔ a ∈ new ∨ a ∈ raced := by
  by_cases h : a ∈ raced <;> simp [joinRaced, h]

@[simp] theorem joinRaced_nil (raced : List Nat) : joinRaced [] raced = raced := rfl

/-- Plane, row and column of a sample, read back from its place in the buffer (20 R63). -/
theorem sampleIndex {w h p r c : Nat} (hr : r < h) (hc : c < w) :
    (p * (w * h) + (r * w + c)) / (w * h) = p ∧ (p * (w * h) + (r * w + c)) % (w * h) / w = r ∧
      (p * (w * h) + (r * w + c)) % (w * h) % w = c := by
  have hw : 0 < w := by omega
  have h1 : r * w + c < w * h := by
    calc r * w + c < r * w + w := by omega
      _ = (r + 1) * w := by ring
      _ ≤ h * w := Nat.mul_le_mul_right _ hr
      _ = w * h := Nat.mul_comm _ _
  have hm : (p * (w * h) + (r * w + c)) % (w * h) = r * w + c := by
    rw [Nat.mul_comm p, Nat.mul_add_mod, Nat.mod_eq_of_lt h1]
  refine ⟨?_, ?_, ?_⟩
  · rw [Nat.mul_comm p, Nat.mul_add_div (by omega), Nat.div_eq_of_lt h1, Nat.add_zero]
  · rw [hm, Nat.mul_comm r, Nat.mul_add_div hw, Nat.div_eq_of_lt hc, Nat.add_zero]
  · rw [hm, Nat.mul_comm r, Nat.mul_add_mod, Nat.mod_eq_of_lt hc]

/-- The output bytes an input byte touches are those of the interior pixels whose neighbourhood holds it (20 R76). -/
theorem mem_touchedOutputs {l : Latch} (hl : LatchLegal l) {a b : Nat} :
    b ∈ touchedOutputs l a ↔ ∃ p r c x, Interior l p r c ∧
      inAddr l p (r + rowOffset x) (c + colOffset x) = a ∧ b = outByte l p r c := by
  have hw := hl.width
  have hh := hl.height
  have hlen : windowLength l = 3 * (l.w.toNat * l.h.toNat) := by simp [windowLength, Nat.mul_assoc]
  have haddr : ∀ p r c : Nat, inAddr l p r c =
      ((l.inBase.toNat + (p * (l.w.toNat * l.h.toNat) + (r * l.w.toNat + c)) : Nat) : Int) := by
    intro p r c
    simp only [inAddr, sampleAddr]
    push_cast
    ring
  constructor
  · intro hb
    unfold touchedOutputs at hb
    split at hb
    · rename_i hin
      simp only [inInputWindow, Bool.and_eq_true, decide_eq_true_eq] at hin
      obtain ⟨x, -, hx⟩ := List.mem_filterMap.mp hb
      simp only [Option.ite_none_right_eq_some, Option.some.injEq] at hx
      obtain ⟨⟨h1, h2, h3, h4⟩, rfl⟩ := hx
      obtain ⟨r, hr⟩ := Int.eq_ofNat_of_zero_le (show (0 : Int) ≤ _ by omega : (0 : Int) ≤
        ((a - l.inBase.toNat) % (l.w.toNat * l.h.toNat) / l.w.toNat : Nat) - rowOffset x)
      obtain ⟨c, hc⟩ := Int.eq_ofNat_of_zero_le (show (0 : Int) ≤ _ by omega : (0 : Int) ≤
        ((a - l.inBase.toNat) % (l.w.toNat * l.h.toNat) % l.w.toNat : Nat) - colOffset x)
      rw [hr] at h1 h2 ⊢
      rw [hc] at h3 h4 ⊢
      refine ⟨(a - l.inBase.toNat) / (l.w.toNat * l.h.toNat), r, c, x,
        ⟨Nat.div_lt_of_lt_mul (by rw [Nat.mul_comm]; omega), by omega, by omega, by omega, by omega⟩, ?_, rfl⟩
      have hr' : (r : Int) + rowOffset x =
          ((a - l.inBase.toNat) % (l.w.toNat * l.h.toNat) / l.w.toNat : Nat) := by omega
      have hc' : (c : Int) + colOffset x =
          ((a - l.inBase.toNat) % (l.w.toNat * l.h.toNat) % l.w.toNat : Nat) := by omega
      rw [hr', hc', haddr]
      have e1 := Nat.div_add_mod (a - l.inBase.toNat) (l.w.toNat * l.h.toNat)
      have e2 := Nat.div_add_mod ((a - l.inBase.toNat) % (l.w.toNat * l.h.toNat)) l.w.toNat
      rw [Nat.mul_comm] at e1 e2
      omega
    · exact absurd hb (List.not_mem_nil)
  · rintro ⟨p, r, c, x, hi, ha, rfl⟩
    have hn := neighbour_inWindow hi x
    have ho := offsets_small x
    obtain ⟨hp, i1, i2, i3, i4⟩ := hi
    obtain ⟨r', hr⟩ := Int.eq_ofNat_of_zero_le (show (0 : Int) ≤ r + rowOffset x by omega)
    obtain ⟨c', hc⟩ := Int.eq_ofNat_of_zero_le (show (0 : Int) ≤ c + colOffset x by omega)
    rw [ha] at hn
    have hin : inInputWindow l a = true := by
      simp only [inInputWindow, Bool.and_eq_true, decide_eq_true_eq]
      omega
    rw [hr, hc, haddr] at ha
    have hoff : a - l.inBase.toNat = p * (l.w.toNat * l.h.toNat) + (r' * l.w.toNat + c') := by omega
    obtain ⟨d1, d2, d3⟩ := sampleIndex (p := p) (show r' < l.h.toNat by omega) (show c' < l.w.toNat by omega)
    unfold touchedOutputs
    rw [if_pos hin]
    refine List.mem_filterMap.mpr ⟨x, mem_allNbrs x, ?_⟩
    simp only [hoff, d1, d2, d3]
    have hr' : (r' : Int) - rowOffset x = r := by omega
    have hc' : (c' : Int) - colOffset x = c := by omega
    rw [hr', hc', if_pos (by omega)]
    rfl

/-- The touched bytes lie in the output window. -/
theorem touchedOutputs_inWindow {l : Latch} (hl : LatchLegal l) {a b : Nat} (h : b ∈ touchedOutputs l a) :
    inOutputWindow l b = true := by
  obtain ⟨p, r, c, -, hi, -, rfl⟩ := (mem_touchedOutputs hl).mp h
  have := outAddr_inWindow hi
  unfold inOutputWindow outByte
  rw [Bool.and_eq_true, decide_eq_true_eq, decide_eq_true_eq]
  omega

/-- The raced bytes are among the bytes they reach. -/
theorem raced_mem_raceReach (ls : List Latch) {raced : List Nat} {a : Nat} (h : a ∈ raced) :
    a ∈ raceReach ls raced := by
  induction ls with
  | nil => exact h
  | cons l older ih => exact List.mem_append_left _ ih

/-- Of every command, the output bytes near a raced byte are among the bytes it reaches. -/
theorem touched_mem_raceReach {ls : List Latch} {l : Latch} (hl : l ∈ ls) {raced : List Nat} {a b : Nat}
    (ha : a ∈ raced) (hb : b ∈ touchedOutputs l a) : b ∈ raceReach ls raced := by
  induction ls with
  | nil => exact absurd hl (List.not_mem_nil)
  | cons m older ih =>
    rcases List.mem_cons.mp hl with rfl | hl
    · exact List.mem_append_right _ (List.mem_flatMap.mpr ⟨a, raced_mem_raceReach older ha, hb⟩)
    · exact List.mem_append_left _ (ih hl)

/-- A racing write to an output window leaves that byte any value (20 R76). -/
theorem raceWrite_out {s : State} {a : Nat} (b : Byte) (h : racesOut s a = true) :
    a ∈ (raceWrite s a b).racedOut := by
  refine mem_joinRaced.mpr (Or.inl (List.mem_filter.mpr ⟨raced_mem_raceReach _ (by simp), h⟩))

/-- A racing write to an input window leaves the outputs near that byte any value, of every command whose windows are
not handed over (20 R76). -/
theorem raceWrite_touched {s : State} {l : Latch} (hl : LatchLegal l) (hu : l ∈ s.unread) {a o : Nat} (b : Byte)
    (h : o ∈ touchedOutputs l a) : o ∈ (raceWrite s a b).racedOut := by
  refine mem_joinRaced.mpr (Or.inl (List.mem_filter.mpr ⟨touched_mem_raceReach hu (by simp) h, ?_⟩))
  exact List.any_eq_true.mpr ⟨l, hu, touchedOutputs_inWindow hl h⟩

/-- A racing write to an input window makes the block's reads of that byte draws (20 R76). -/
theorem raceWrite_in {s : State} {a : Nat} (b : Byte) (h : racesIn s a = true) :
    a ∈ (raceWrite s a b).racedIn := by
  simp [raceWrite, h]

/-- Every raced output byte lies in an output window not handed over. -/
theorem raceWrite_racedOut {s : State} {a o : Nat} {b : Byte} (h : o ∈ (raceWrite s a b).racedOut) :
    racesOut s o = true ∨ o ∈ s.racedOut := by
  rcases mem_joinRaced.mp h with h | h
  · exact Or.inl (List.mem_filter.mp h).2
  · exact Or.inr h

/-- Where no byte is raced, a DETECT command only opens its windows. -/
theorem openWindows_of_raceFree {s : State} (h : RaceFree s) (l : Latch) :
    openWindows s l = { s with unread := l :: s.unread } := by
  simp [openWindows, h.1, h.2]

end Sys2Proof.Machine
end

