-- ==== Sys2Proof/Tests/Slice0.lean ====
section
/-! SUPPORT. Tests from the worked examples of spec/95_test_vectors.md (each names its vector), and for each
obligation with hypotheses a witness that meets them. -/

open Sys2Proof Sys2Proof.Machine

namespace Sys2Proof.Tests

/-! ### Helpers -/

/-- The answer is a next state of which `check` holds. -/
def answers (o : Answer) (check : State → Bool) : Bool :=
  match o with
  | .next s => check s
  | .fault _ => false
  | .refused _ => false

/-- An idle block after reset with the given operand registers. -/
def idleWith (bpp w h inBase outBase : Word) : State :=
  { State.reset with bpp := bpp, width := w, height := h, inBase := inBase, outBase := outBase }

/-- Consecutive bytes of memory. -/
def cellsAt : Nat → List Nat → Memory
  | _, [] => []
  | a, b :: rest => Memory.write (cellsAt (a + 1) rest) a (BitVec.ofNat 8 b)

/-- A ready 3x3 image, input at 0x1000, output at 0x1100. -/
def ready33 (plane0 : List Nat) : State :=
  { idleWith 24 3 3 0x1000 0x1100 with mem := cellsAt 0x1000 plane0 }

/-- The command of `s` running, at position `q`. -/
def running (s : State) (phase : Phase) (q : SeqPos) : State :=
  { s with phase := phase, lat := latched s, seq := q, unread := [latched s] }

/-- T-S4's image: the largest output. -/
def largest : State := ready33 [0, 0, 0, 0, 77, 255, 3, 255, 255]

/-- T-V4's plane 0, W = 12, H = 3, input at 0x3000, output at 0x3100, at chunk (1, 8) of plane 0. -/
def chunkV4 : State :=
  running { idleWith 24 12 3 0x3000 0x3100 with
      mem := cellsAt 0x3000 [0, 7, 28, 63, 112, 175, 252, 87, 192, 55, 188, 79,
        50, 57, 78, 113, 162, 225, 46, 137, 242, 105, 238, 129,
        100, 107, 128, 163, 212, 19, 96, 187, 36, 155, 32, 179] }
    .runV ⟨0, 1, 1, 8⟩

/-! ### Well-formedness: one ill-formed word per check (30 R91 to R93) -/

theorem test_reserved_bits_refused :
    CommandFields.reservedClear ⟨1#4, 0#1, 1#27⟩ = false ∧
      CommandFields.wellFormed ⟨1#4, 0#1, 1#27⟩ = false := by decide

theorem test_unknown_opcodes_refused :
    ∀ opc : BitVec 4, opc ∈ [0#4, 4#4, 5#4, 6#4, 7#4, 8#4, 9#4, 10#4, 11#4, 12#4, 13#4, 14#4, 15#4] →
      CommandFields.opcodeKnown ⟨opc, 0#1, 0#27⟩ = false ∧
        CommandFields.wellFormed ⟨opc, 0#1, 0#27⟩ = false := by decide

theorem test_variant_refused :
    CommandFields.variantAllowed ⟨2#4, 1#1, 0#27⟩ = false ∧
      CommandFields.wellFormed ⟨2#4, 1#1, 0#27⟩ = false ∧
      CommandFields.wellFormed ⟨3#4, 1#1, 0#27⟩ = false := by decide

theorem test_commands_well_formed :
    [Instr.detectS, .detectV, .widen, .narrow].all Instr.wellFormed = true := by decide

/-! ### Decoding: words written out bit by bit, RSV then V then OPC (30 R91, R98) -/

theorem test_decode_detectS : decode 0b000000000000000000000000000_0_0001#32 = .command .detectS := by decide
theorem test_decode_detectV : decode 0b000000000000000000000000000_1_0001#32 = .command .detectV := by decide
theorem test_decode_widen : decode 0b000000000000000000000000000_0_0010#32 = .command .widen := by decide
theorem test_decode_narrow : decode 0b000000000000000000000000000_0_0011#32 = .command .narrow := by decide

/-- T-E1 to T-E5. -/
theorem test_illegal_words :
    decode 0x00000000#32 = .illegal (.unknownOpcode 0#4) ∧
    decode 0x00000012#32 = .illegal (.variantNotAllowed 2#4) ∧
    decode 0x00000021#32 = .illegal (.reservedBitsSet 1#27) ∧
    decode 0x80000001#32 = .illegal (.reservedBitsSet 0x4000000#27) ∧
    decode 0x00000004#32 = .illegal (.unknownOpcode 4#4) ∧
    decode 0x0000000F#32 = .illegal (.unknownOpcode 15#4) ∧
    decode 0x00000013#32 = .illegal (.variantNotAllowed 3#4) := by decide

/-- 30 R98, R100: the mnemonics and `detect v`. -/
theorem test_mnemonics :
    [Instr.detectS, .detectV, .widen, .narrow].map Instr.mnemonic =
      ["detect.s", "detect.v", "widen", "narrow"] ∧
    expandLine (.run 1) = some [.regWrite .b32 0x00#8 0x00000011#32, .wait] ∧
    expandLine (.detect 2) = none ∧
    expandLine (.setup 5 5 0x1000 0x2000) =
      some [.regWrite .b32 0x0C#8 24#32, .regWrite .b32 0x10#8 5#32, .regWrite .b32 0x14#8 5#32,
        .regWrite .b32 0x18#8 0x1000#32, .regWrite .b32 0x1C#8 0x2000#32] := by decide

/-! ### WIDEN and NARROW -/

/-- T-T1. -/
theorem test_widen :
    answers (step (State.withFetchWord
        { State.reset with laneB0 := 0x80FF7F00#32, laneB1 := 0x04030201#32 } 32 0x00000002))
      (fun s => s.laneW0 == 0x007F0000#32 && s.laneW1 == 0x008000FF#32 && s.laneW2 == 0x00020001#32 &&
        s.laneW3 == 0x00040003#32 && statusWord s == 0x00000002#32 && s.laneB0 == 0x80FF7F00#32) = true := by
  decide

/-- T-T2: truncation, not saturation. -/
theorem test_narrow_truncates :
    answers (step (State.withFetchWord
        { State.reset with
          laneW0 := 0x01FF0100#32, laneW1 := 0x008000FF#32
          laneW2 := 0x00020001#32, laneW3 := 0x00040003#32 } 32 0x00000003))
      (fun s => s.laneB0 == 0x80FFFF00#32 && s.laneB1 == 0x04030201#32 &&
        statusWord s == 0x00000002#32 && s.laneW0 == 0x01FF0100#32) = true := by
  decide

/-- T-T3: signed and large lanes. -/
theorem test_narrow_signed :
    answers (step (State.withFetchWord
        { State.reset with
          laneW0 := 0xFFFF8000#32, laneW1 := 0x7FFF0100#32
          laneW2 := 0xFF010080#32, laneW3 := 0x00FF007F#32 } 32 0x00000003))
      (fun s => s.laneB0 == 0xFF00FF00#32 && s.laneB1 == 0xFF7F0180#32) = true := by
  decide

/-! ### DETECT.S -/

/-- T-S5: truncation toward zero on a negative sum. -/
theorem test_scalar_truncates :
    answers (step (running (ready33 [9]) .runS ⟨0, 1, 1, 1⟩))
      (fun s => Memory.read s.mem 0x1104 == 2#8 && s.seq == ⟨1, 1, 1, 1⟩ &&
        s.ssv == BitVec.ofInt 32 (-9)) = true := by
  decide

/-- T-S4: the largest output, on the last unit of a run. -/
theorem test_scalar_largest_and_finish :
    answers (step (running { largest with mem := cellsAt 0x1012 [0, 0, 0, 0, 77, 255, 3, 255, 255] }
        .runS ⟨2, 1, 1, 1⟩))
      (fun s => Memory.read s.mem 0x1116 == 191#8 && statusWord s == 0x00000002#32 &&
        s.phase == .idle) = true := by
  decide

/-! ### DETECT.V -/

/-- T-V4: the lane trace of chunk (1, 8), its eight bytes and the tail realignment. -/
theorem test_chunk_trace :
    answers (step chunkV4) (fun s =>
      s.vop.c == ⟨28#16, 63#16, 112#16, 175#16, 252#16, 87#16, 192#16, 55#16⟩ &&
      s.sv == ⟨0x0190#16, 0x0190#16, 0x0190#16, 0x0090#16, 0xFE90#16, 0xFE90#16, 0xFF90#16, 0xFF90#16⟩ &&
      s.sh == ⟨0x0070#16, 0x00E0#16, 0x0150#16, 0x00C0#16, 0xFF30#16, 0xFFA0#16, 0x0110#16, 0xFF80#16⟩ &&
      s.vr == ⟨0x0040#16, 0x004E#16, 0x005C#16, 0x002A#16, 0x0048#16, 0x003A#16, 0x0030#16, 0x001E#16⟩ &&
      (List.range 10).map (fun k => (Memory.read s.mem (0x310C + k)).toNat) ==
        [0, 64, 78, 92, 42, 72, 58, 48, 30, 0] &&
      s.seq == ⟨0, 1, 3, 8⟩) = true := by
  decide +kernel

/-- T-V6 on T-S2's image: one active lane. -/
theorem test_one_lane :
    answers (step (running (ready33 [0, 0, 0, 9, 9, 9, 255, 255, 255]) .runV ⟨0, 1, 1, 1⟩))
      (fun s => Memory.read s.mem 0x1104 == 127#8 && Memory.read s.mem 0x1105 == 0#8 &&
        s.seq == ⟨1, 1, 1, 1⟩) = true := by
  decide +kernel

/-! ### Lane primitives and chunk lists -/

/-- T-A, one lane each, and T-S5 through R180. -/
theorem test_lane_primitives :
    [0x0000#16, 0x00FF#16, 0x8000#16].map (fun v => (lneg (Oct.const v)).e3) =
      [0x0000#16, 0xFF01#16, 0x8000#16] ∧
    [0x00FF#16, 0xFFFF#16, 0x4000#16].map (fun v => (lshl1 (Oct.const v)).e3) =
      [0x01FE#16, 0xFFFE#16, 0x8000#16] ∧
    (ladd (Oct.const 0xFF9C#16) (Oct.const 0x0064#16)).e0 = 0x0000#16 ∧
    (ladd (Oct.const 0x7FFF#16) (Oct.const 0x0001#16)).e7 = 0x8000#16 ∧
    [0xFC04#16, 0x0000#16, 0x8000#16].map (fun v => (labs (Oct.const v)).e3) =
      [0x03FC#16, 0x0000#16, 0x8000#16] ∧
    [0x0007#16, 0x0008#16, 0x00C8#16, 0x03FC#16, 0xFFF7#16, 0xFFFF#16, 0x8000#16].map
        (fun v => (lasr3 (Oct.const v)).e3) =
      [0x0000#16, 0x0001#16, 0x0019#16, 0x007F#16, 0xFFFE#16, 0xFFFF#16, 0xF000#16] ∧
    (chunkResult (Oct.const 0xFFF7#16) (Oct.const 0xFFF7#16)).e5 = 0x0002#16 := by
  decide

/-- T-C. -/
theorem test_chunk_lists :
    [3, 9, 10, 11, 12, 17, 18, 19].map chunkList =
      [[(1, 1)], [(1, 7)], [(1, 8)], [(1, 8), (2, 8)], [(1, 8), (3, 8)], [(1, 8), (8, 8)],
        [(1, 8), (9, 8)], [(1, 8), (9, 8), (10, 8)]] ∧
    chunkList 27 = [(1, 8), (9, 8), (17, 8), (18, 8)] := by
  decide

/-! ### Errors -/

/-- STATUS and FAULT_ADDR after the CMD write of `w`. -/
def after (s : State) (w : Nat) (status faultAddr : Word) : Bool :=
  answers (step (s.withFetchWord 32 w)) fun t => statusWord t == status && t.faultAddr == faultAddr

/-- T-E3, T-E6 to T-E13, on either side of each bound. -/
theorem test_acceptance_errors :
    after State.reset 0x21 0x00000106#32 0 = true ∧
    after (idleWith 32 3 3 0x1000 0x1100) 0x01 0x00000206#32 0 = true ∧
    after (idleWith 24 2 3 0x1000 0x1100) 0x01 0x00000306#32 0 = true ∧
    after (idleWith 24 3 0 0x1000 0x1100) 0x11 0x00000306#32 0 = true ∧
    after (idleWith 24 3 3 0xFFFFFFF0 0x1100) 0x01 0x00000406#32 0 = true ∧
    after (idleWith 24 0x10000 0x10000 0 0) 0x01 0x00000406#32 0 = true ∧
    after (idleWith 24 3 3 0x1000 0x1010) 0x01 0x00000506#32 0 = true ∧
    after (idleWith 24 3 3 0x1000 0x1000) 0x11 0x00000506#32 0 = true ∧
    after (idleWith 24 3 3 0x1000 0x101B) 0x01 0x00000001#32 0 = true := by
  decide

/-- T-E14 to T-E17: the priority of the checks. -/
theorem test_error_priority :
    after (idleWith 0 1 3 0xFFFFFFFF 0xFFFFFFFF) 0x01 0x00000206#32 0 = true ∧
    after (idleWith 24 1 3 0xFFFFFFFF 0xFFFFFFFF) 0x01 0x00000306#32 0 = true ∧
    after (idleWith 24 3 3 0xFFFFFFFF 0xFFFFFFFF) 0x01 0x00000406#32 0 = true ∧
    after (idleWith 24 3 3 0xFFFFFFE5 0x1100) 0x01 0x00000001#32 0 = true := by
  decide

/-- The platform of T-E: memory below 0x8000. -/
def below8000 (s : State) : State := { s with memMap := [⟨0, 0x8000⟩] }

/-- T-E18 at its plane-1 unit. -/
def failingRead (phase : Phase) : State :=
  below8000 (running (idleWith 24 3 3 0x7FF0 0x7000) phase ⟨1, 1, 1, 1⟩)

/-- T-E19 at its plane-2 unit. -/
def failingWrite (phase : Phase) : State :=
  below8000 (running (idleWith 24 3 3 0x7000 0x7FF0) phase ⟨2, 1, 1, 1⟩)

/-- T-E18 and T-E19. -/
theorem test_bus_errors :
    [Phase.runS, .runV].all (fun phase =>
      answers (step (failingRead phase)) (fun t =>
        statusWord t == 0x00000606#32 && t.faultAddr == 0x00008000#32 && t.mem == []) &&
      answers (step (failingWrite phase)) (fun t =>
        statusWord t == 0x00000606#32 && t.faultAddr == 0x00008006#32)) = true := by
  decide +kernel

/-- T-R2 to T-R5, the register window. -/
theorem test_register_window :
    answers (Sys2Proof.core.run 2 { State.reset with
        inputs := [.regWrite .b32 0x10#8 0xDEADBEEF#32, .regRead .b32 0x10#8] })
      (fun t => t.busData == 0xDEADBEEF#32) = true ∧
    answers (Sys2Proof.core.run 2 { State.reset with
        inputs := [.regWrite .b32 0x04#8 0xFFFFFFFF#32, .regRead .b32 0x04#8] })
      (fun t => t.busData == 0#32) = true ∧
    [0x38#8, 0x80#8, 0xFC#8, 0x00#8].all (fun off =>
      answers (step { State.reset with inputs := [.regRead .b32 off], busData := 7#32 })
        (fun t => t.busData == 0#32)) = true := by
  decide

/-! ### Races -/

/-- 20 R76: a host write to the centre sample of a pixel, which both kernels weigh 0, leaves that pixel's output any
value, and the samples of a 4x4 image that is near four pixels leave all four. -/
theorem test_race_reaches_outputs :
    answers (step { running largest .runS ⟨1, 1, 1, 1⟩ with inputs := [.memWrite 0x1004#32 5#8] })
      (fun t => t.racedOut == [0x1104] && t.racedIn == [0x1004] && Memory.read t.mem 0x1004 == 5#8) = true ∧
    touchedOutputs ⟨4#32, 4#32, 0x1000#32, 0x1100#32⟩ 0x1005 = [0x110A, 0x1109, 0x1106, 0x1105] ∧
    touchedOutputs ⟨4#32, 4#32, 0x1000#32, 0x1100#32⟩ 0x1000 = [0x1105] ∧
    touchedOutputs ⟨4#32, 4#32, 0x1000#32, 0x1100#32⟩ 0x102F = [0x112A] := by
  decide

/-- 70 R248: after the run, a read of the output window is a draw until a STATUS read has shown BUSY = 0. -/
theorem test_race_lasts_to_status_read :
    answers (step { finish (running largest .runS ⟨2, 1, 1, 1⟩) with inputs := [.memRead 0x1104#32] })
      (fun t => t.draws == 1) = true ∧
    answers (Sys2Proof.core.run 2
        { finish (running largest .runS ⟨2, 1, 1, 1⟩) with
          inputs := [.regRead .b32 0x04#8, .memRead 0x1104#32] })
      (fun t => t.draws == 0 && t.busData == 0#32 && t.unread == []) = true := by
  decide

/-! ### Witnesses: concrete states that meet the hypotheses of each obligation -/

/-- A scalar run of `largest`, at its first unit. -/
def scalarRun : State := running largest .runS ⟨0, 1, 1, 1⟩

/-- A scalar run of `largest`, at its last unit. -/
def scalarLast : State := running largest .runS ⟨2, 1, 1, 1⟩

/-- A wide image ready to run: W = 11, the largest overlap (T-V5). -/
def readyWide : State := idleWith 24 11 3 0x3000 0x3100

theorem legal_largest : LatchLegal (latched largest) :=
  ⟨by decide, by decide, by decide, by decide, by decide⟩

theorem legal_wide : LatchLegal (latched readyWide) :=
  ⟨by decide, by decide, by decide, by decide, by decide⟩

/-- Where memory is the whole space, every address below 2^32 responds. -/
theorem responds_whole {s : State} (h : s.memMap = [⟨0, 2 ^ 32⟩]) (base len : Nat)
    (hl : base + len ≤ 2 ^ 32) : Responds s base len := by
  intro a _ h2
  have h3 : a < 2 ^ 32 := by omega
  simp [memOK, h, Config.spaceSize]
  omega

theorem witness_Ready : Ready largest ∧ Ready readyWide :=
  ⟨⟨by decide, by decide, ⟨rfl, rfl⟩, by decide, legal_largest,
      ⟨responds_whole rfl _ _ (by decide), responds_whole rfl _ _ (by decide)⟩, by decide⟩,
    ⟨by decide, by decide, ⟨rfl, rfl⟩, by decide, legal_wide,
      ⟨responds_whole rfl _ _ (by decide), responds_whole rfl _ _ (by decide)⟩, by decide⟩⟩

theorem invariant_scalarRun : Invariant scalarRun where
  memCanonical := by decide
  memInSpace := by decide
  statusBusy := fun _ => by decide
  statusIdle := fun h => absurd h (by decide)
  faultAddr := fun h => absurd rfl h
  operands := fun _ => legal_largest
  scalarSeq := fun _ => ⟨⟨by decide, by decide, by decide, by decide, by decide⟩, by decide⟩
  vectorSeq := fun h => absurd h (by decide)
  runUnread := fun _ => List.mem_singleton.mpr rfl
  unreadLegal := fun l h => by rw [List.mem_singleton.mp h]; exact legal_largest
  racedIn := fun _ h => absurd h (List.not_mem_nil)
  racedOut := fun _ h => absurd h (List.not_mem_nil)

theorem invariant_scalarLast : Invariant scalarLast where
  memCanonical := by decide
  memInSpace := by decide
  statusBusy := fun _ => by decide
  statusIdle := fun h => absurd h (by decide)
  faultAddr := fun h => absurd rfl h
  operands := fun _ => legal_largest
  scalarSeq := fun _ => ⟨⟨by decide, by decide, by decide, by decide, by decide⟩, by decide⟩
  vectorSeq := fun h => absurd h (by decide)
  runUnread := fun _ => List.mem_singleton.mpr rfl
  unreadLegal := fun l h => by rw [List.mem_singleton.mp h]; exact legal_largest
  racedIn := fun _ h => absurd h (List.not_mem_nil)
  racedOut := fun _ h => absurd h (List.not_mem_nil)

/-- A vector run of W = 11, at the chunk (c, 8) of row 1 of plane p. -/
def wideRun (p c : Nat) : State := running readyWide .runV ⟨p, 1, c, 8⟩

theorem invariant_wideRun (p c : Nat) (hp : p < 3) (hc : (c, 8) ∈ chunkList 11) :
    Invariant (wideRun p c) where
  memCanonical := rfl
  memInSpace := rfl
  statusBusy := fun _ => rfl
  statusIdle := fun h => nomatch h
  faultAddr := fun h => absurd rfl h
  operands := fun _ => legal_wide
  scalarSeq := fun h => nomatch h
  vectorSeq := fun _ => ⟨hp, Nat.le_refl 1, Nat.le_refl 3, hc⟩
  runUnread := fun _ => List.mem_singleton.mpr rfl
  unreadLegal := fun l h => by rw [List.mem_singleton.mp h]; exact legal_wide
  racedIn := fun _ h => absurd h (List.not_mem_nil)
  racedOut := fun _ h => absurd h (List.not_mem_nil)

/-- The clause on illegal words, at a neighbour of each legal word. -/
theorem witness_LegalWordsAreExactlyFour : ∀ w ∈ [0x00000000#32, 0x00000012#32, 0x00000013#32, 0x00000004#32],
    ({ State.reset with inputs := [.regWrite .b32 0x00#8 w] } : State).phase = .idle ∧
      w ≠ 0x00000001#32 ∧ w ≠ 0x00000011#32 ∧ w ≠ 0x00000002#32 ∧ w ≠ 0x00000003#32 := by
  intro w hw
  simp only [List.mem_cons, List.not_mem_nil, or_false] at hw
  rcases hw with rfl | rfl | rfl | rfl <;> exact ⟨rfl, by decide⟩

theorem witness_OpcodeMapSelects : ∃ row ∈ opcodeMap, row.selects 0x11#32 = true := by decide

theorem witness_StepRunsDecodedCommand :
    ({ State.reset with inputs := [.regWrite .b32 0x00#8 0x11#32] } : State).inputs =
      .regWrite .b32 0x00#8 0x11#32 :: [] ∧
    decode 0x11#32 = .command .detectV ∧ decodeTableWord 32 0x11 = some .detectV := by decide

theorem witness_BusyCommandDropped :
    ({ scalarRun with inputs := [.regWrite .b32 0x00#8 0x02#32] } : State).phase ≠ .idle ∧
    ({ scalarRun with inputs := [.regWrite .b32 0x00#8 0x02#32] } : State).inputs =
      .regWrite .b32 0x00#8 0x02#32 :: [] := by decide

theorem witness_CommandFrame :
    ∀ i ∈ [Instr.detectS, .detectV, .widen, .narrow], ∃ t, exec i largest = .next t := by
  intro i _
  cases i <;> exact ⟨_, rfl⟩

theorem witness_WidenCompletes_NarrowCompletes_TranscoderRoundTrip : State.reset.phase = .idle := by decide

theorem witness_KernelSumRange : allNbrs.Nodup ∧ ([] : List Nbr).Nodup := by decide

/-- The one interior pixel of `largest` in its last plane. -/
theorem witness_KernelSumForms : Interior (latched largest) 2 1 1 ∧
    ∃ sample : Int → Int → Int, ∀ k j, sample k j =
      ((Memory.read largest.mem (inAddr (latched largest) 2 ((1 : Nat) + k) ((1 : Nat) + j)).toNat).toNat : Int) :=
  ⟨⟨by decide, by decide, by decide, by decide, by decide⟩, _, fun _ _ => rfl⟩

theorem witness_DetectSAccepted_DetectVAccepted :
    largest.phase = .idle ∧ largest.bpp = 24#32 ∧
      LatchLegal ⟨largest.width, largest.height, largest.inBase, largest.outBase⟩ :=
  ⟨by decide, by decide, legal_largest⟩

/-- Each clause at a boundary: depth 23 and 25; width 2, height 2; a sum of 2^32 + 1; bases 26 apart, and equal. -/
theorem witness_AcceptanceChecksInOrder :
    (idleWith 23 3 3 0x1000 0x1100).bpp ≠ 24#32 ∧ (idleWith 25 3 3 0x1000 0x1100).bpp ≠ 24#32 ∧
    (idleWith 24 2 3 0x1000 0x1100).width.toNat < 3 ∧ (idleWith 24 3 2 0x1000 0x1100).height.toNat < 3 ∧
    2 ^ 32 < (idleWith 24 3 3 0xFFFFFFE6 0x1100).inBase.toNat + 3 * 3 * 3 ∧
    2 ^ 32 < (idleWith 24 3 3 0x1100 0xFFFFFFE6).outBase.toNat + 3 * 3 * 3 ∧
    (∀ s ∈ [idleWith 24 3 3 0x1000 0x101A, idleWith 24 3 3 0x1000 0x1000, idleWith 24 3 3 0x101A 0x1000],
      s.phase = .idle ∧ s.bpp = 24#32 ∧ 3 ≤ s.width.toNat ∧ 3 ≤ s.height.toNat ∧
      s.inBase.toNat + 3 * s.width.toNat * s.height.toNat ≤ 2 ^ 32 ∧
      s.outBase.toNat + 3 * s.width.toNat * s.height.toNat ≤ 2 ^ 32 ∧
      s.inBase.toNat < s.outBase.toNat + 3 * s.width.toNat * s.height.toNat ∧
      s.outBase.toNat < s.inBase.toNat + 3 * s.width.toNat * s.height.toNat) := by decide +kernel

/-- For ScalarUnitWritesPixel, AccumulatorsHoldSums and ScalarUnitAdvances, the last with a further plane and at the
end. -/
theorem witness_ScalarUnit : ∀ s ∈ [scalarRun, scalarLast],
    Invariant s ∧ s.phase = .runS ∧ s.inputs = [] ∧ RaceFree s ∧ Backed s s.lat := by
  intro s hs
  simp only [List.mem_cons, List.not_mem_nil, or_false] at hs
  rcases hs with rfl | rfl
  · exact ⟨invariant_scalarRun, rfl, rfl, ⟨rfl, rfl⟩,
      responds_whole rfl _ _ (by decide), responds_whole rfl _ _ (by decide)⟩
  · exact ⟨invariant_scalarLast, rfl, rfl, ⟨rfl, rfl⟩,
      responds_whole rfl _ _ (by decide), responds_whole rfl _ _ (by decide)⟩

/-- For VectorUnitWritesChunk, LaneRegistersHoldChunk and VectorUnitAdvances: the chunks (1, 8) and (2, 8) of W = 11,
in the first and in the last plane. -/
theorem witness_VectorUnit : ∀ s ∈ [wideRun 0 1, wideRun 0 2, wideRun 2 2],
    Invariant s ∧ s.phase = .runV ∧ s.inputs = [] ∧ RaceFree s ∧ Backed s s.lat := by
  intro s hs
  simp only [List.mem_cons, List.not_mem_nil, or_false] at hs
  rcases hs with rfl | rfl | rfl
  all_goals
    exact ⟨invariant_wideRun _ _ (by decide) (by decide), rfl, rfl, ⟨rfl, rfl⟩,
      responds_whole rfl _ _ (by decide), responds_whole rfl _ _ (by decide)⟩

theorem witness_ChunkListIsVisited :
    (chunkList 11)[0]? = some (1, 8) ∧ (chunkList 11)[0 + 1]? = some (2, 8) ∧
    (chunkList 3).getLast? = some (1, 1) ∧ (chunkList 10).getLast? = some (1, 8) := by decide

theorem legal_failingRead : LatchLegal ⟨3#32, 3#32, 0x7FF0#32, 0x7000#32⟩ :=
  ⟨by decide, by decide, by decide, by decide, by decide⟩

theorem interior_failingRead : Interior ⟨3#32, 3#32, 0x7FF0#32, 0x7000#32⟩ 1 1 1 :=
  ⟨by decide, by decide, by decide, by decide, by decide⟩

theorem chunk_failingRead : (1, 1) ∈ chunkList 3 := by decide

theorem invariant_failingRead (phase : Phase) (h : phase = .runS ∨ phase = .runV) :
    Invariant (failingRead phase) where
  memCanonical := rfl
  memInSpace := rfl
  statusBusy := fun _ => rfl
  statusIdle := fun hi => by rcases h with rfl | rfl <;> exact nomatch hi
  faultAddr := fun hi => absurd rfl hi
  operands := fun _ => legal_failingRead
  scalarSeq := fun _ => ⟨interior_failingRead, rfl⟩
  vectorSeq := fun _ => ⟨Nat.lt_of_sub_eq_succ rfl, Nat.le_refl 1, Nat.le_refl 3, chunk_failingRead⟩
  runUnread := fun _ => List.mem_singleton.mpr rfl
  unreadLegal := fun l hi => by rw [List.mem_singleton.mp hi]; exact legal_failingRead
  racedIn := fun _ hi => absurd hi (List.not_mem_nil)
  racedOut := fun _ hi => absurd hi (List.not_mem_nil)

/-- T-E18: each detector. -/
theorem witness_ReadFailureEndsRun :
    (Invariant (failingRead .runS) ∧ (failingRead .runS).inputs = [] ∧ RaceFree (failingRead .runS) ∧
      firstFailing (failingRead .runS) (scalarReads (failingRead .runS)) = some 0x8000) ∧
    (Invariant (failingRead .runV) ∧ (failingRead .runV).inputs = [] ∧ RaceFree (failingRead .runV) ∧
      firstFailing (failingRead .runV) (vectorReads (failingRead .runV)) = some 0x8000) :=
  ⟨⟨invariant_failingRead _ (.inl rfl), rfl, ⟨rfl, rfl⟩, by decide⟩,
    ⟨invariant_failingRead _ (.inr rfl), rfl, ⟨rfl, rfl⟩, by decide⟩⟩

/-- A chunk of W = 11 whose write of column 4 fails: memory ends after that of column 3. -/
def failingStore : State :=
  { wideRun 0 1 with memMap := [⟨0, 0x310F⟩] }

theorem witness_WriteFailureEndsRun :
    Invariant failingStore ∧ failingStore.phase ≠ .idle ∧ failingStore.inputs = [] ∧
    RaceFree failingStore ∧ 3 < failingStore.seq.n ∧
    (∀ x ∈ allNbrs, ∀ j, j < failingStore.seq.n → memOK failingStore (nbrAddr failingStore x + j) = true) ∧
    (∀ j, j < 3 → memOK failingStore (outAddr failingStore.lat 0 1 ((1 + j : Nat) : Int)) = true) ∧
    memOK failingStore (outAddr failingStore.lat 0 1 ((1 + 3 : Nat) : Int)) = false := by
  have h := invariant_wideRun 0 1 (by decide) (by decide)
  exact ⟨⟨h.memCanonical, h.memInSpace, h.statusBusy, h.statusIdle, h.faultAddr, h.operands, h.scalarSeq,
    h.vectorSeq, h.runUnread, h.unreadLegal, h.racedIn, h.racedOut⟩, by decide, rfl, ⟨rfl, rfl⟩, by decide, by decide, by decide, by decide⟩

theorem witness_StepKeepsInvariant :
    (∃ t, step scalarRun = .next t) ∧ ∃ t, step (wideRun 2 2) = .next t := ⟨⟨_, rfl⟩, ⟨_, rfl⟩⟩

theorem witness_StatusReadsLegal : Invariant scalarRun ∧ Invariant (wideRun 0 1) :=
  ⟨invariant_scalarRun, invariant_wideRun 0 1 (by decide) (by decide)⟩

theorem witness_BlockTurnFrame_IdleBlockWaits :
    scalarRun.inputs = [] ∧ State.reset.inputs = [] ∧ State.reset.phase = .idle ∧
    ({ scalarRun with inputs := [.blockTurn, .wait] } : State).inputs = .blockTurn :: [.wait] := by decide

/-- Inactive lanes: with two active lanes, lanes 2 and 7 are the ends of the inactive range; a lane of zeros. -/
theorem witness_LaneSumsExact :
    (∀ j ∈ [(2 : Fin 8), 7], ({ State.reset with seq := ⟨0, 1, 1, 2⟩ } : State).seq.n ≤ j.val) ∧
    ∀ x, ((Win.ofFn fun _ => Oct.const (0#8 : Byte)).get x).get 7 = 0#8 :=
  ⟨by decide, fun x => by cases x <;> rfl⟩

/-- A turn that changes a byte: T-S4's first unit writes 191 at 0x1104. -/
theorem witness_OnlyInteriorBytesChange :
    Invariant scalarRun ∧ scalarRun.inputs = [] ∧
    answers (step scalarRun) (fun t => Memory.read t.mem 0x1104 != Memory.read scalarRun.mem 0x1104) = true :=
  ⟨invariant_scalarRun, rfl, by decide⟩

/-- The other memory differs from the run's at a byte of plane 1. -/
theorem witness_OtherPlanesDoNotMatter :
    Invariant scalarRun ∧ scalarRun.inputs = [] ∧
    Memory.wf (Memory.write scalarRun.mem 0x1009 7#8) = true ∧
    PlaneAgrees scalarRun.lat 0 scalarRun.mem (Memory.write scalarRun.mem 0x1009 7#8) ∧
    Memory.read (Memory.write scalarRun.mem 0x1009 7#8) 0x1009 ≠ Memory.read scalarRun.mem 0x1009 ∧
    (∃ t, step scalarRun = .next t) ∧
    ∃ t', step { scalarRun with mem := Memory.write scalarRun.mem 0x1009 7#8 } = .next t' := by
  refine ⟨invariant_scalarRun, rfl, by decide, ?_, by decide, ⟨_, rfl⟩, ⟨_, rfl⟩⟩
  intro a _ h
  have h' : a < 0x1009 := h
  rw [read_write (by decide), if_neg (by omega)]

/-- Each stop: no memory at 0x8000, and an 8-bit register access. -/
theorem witness_OnlyHostAccessesStop :
    step (below8000 { State.reset with inputs := [.memRead 0x8000#32] }) =
      .fault (.hostNoMemory 0x8000#32) ∧
    step { State.reset with inputs := [.regRead .b8 0x00#8] } =
      .refused (.badRegisterAccess .b8 0x00#8) := by
  have h : memOK { below8000 { State.reset with inputs := [.memRead 0x8000#32] } with inputs := [] }
      (0x8000#32).toNat = false := by decide +kernel
  refine ⟨?_, rfl⟩
  change serveMemRead { below8000 { State.reset with inputs := [.memRead 0x8000#32] } with inputs := [] }
    0x8000#32 = _
  unfold serveMemRead
  simp only [h, if_true]

theorem witness_RegisterReadsBack :
    Reg.laneW3 ≠ .cmd ∧ Reg.laneW3 ≠ .status ∧ Reg.laneW3 ≠ .faultAddr ∧ regOffset .laneW3 = 0x34#8 ∧
    ({ scalarRun with inputs := [.regWrite .b32 0x34#8 7#32, .regRead .b32 0x34#8] } : State).inputs =
      .regWrite .b32 (regOffset .laneW3) 7#32 :: .regRead .b32 (regOffset .laneW3) :: [] := by decide

/-- Both ends of the unmapped range, the read-only registers, and a waiting read of FAULT_ADDR. -/
theorem witness_ReadOnlyAndUnmapped :
    (∀ off ∈ [0x04#8, 0x08#8, 0x38#8, 0xFC#8],
      off = 0x04#8 ∨ off = 0x08#8 ∨ (0x38 ≤ off.toNat ∧ off.toNat % 4 = 0)) ∧
    (∀ off ∈ [0x00#8, 0x38#8, 0xFC#8], off = 0x00#8 ∨ (0x38 ≤ off.toNat ∧ off.toNat % 4 = 0)) ∧
    ({ State.reset with inputs := [.regRead .b32 0x08#8] } : State).inputs = .regRead .b32 0x08#8 :: [] := by
  decide

theorem witness_BadAccessRefused :
    (∀ width ∈ [AccessWidth.b8, .b16, .b64], width ≠ .b32 ∨ (0x00#8).toNat % 4 ≠ 0) ∧
    ∀ off ∈ [0x01#8, 0x02#8, 0x03#8, 0xFF#8], AccessWidth.b32 ≠ .b32 ∨ off.toNat % 4 ≠ 0 := by decide

theorem witness_OperandWriteDuringRun :
    scalarRun.phase ≠ .idle ∧ Reg.width ≠ .cmd ∧ Reg.width ≠ .status ∧ Reg.width ≠ .faultAddr := by decide

theorem witness_RegisterAddressesDistinct : regBusAddr .cmd = regBusAddr .cmd := rfl

theorem witness_MemoryIsPlainRam :
    Memory.wf scalarRun.mem = true ∧
    (∀ a ∈ [0, 0xFFFFFFFF], racesIn scalarRun a = false ∧ racesOut scalarRun a = false) ∧
    memOK scalarRun ((0xFFFFFFFF#32).toNat : Int) = true ∧ memOK scalarRun ((0#32).toNat : Int) = true := by decide

/-- Reset of an idle block after an error. -/
theorem witness_ResetClearsRegisters :
    ({ largest with status := statusError .badDims, inputs := [.reset 0] } : State).phase = .idle ∧
    ({ largest with status := statusError .badDims, inputs := [.reset 0] } : State).inputs = .reset 0 :: [] :=
  ⟨rfl, rfl⟩

/-- An input does not change whether a running state meets the invariant. -/
theorem invariant_inputs {s : State} (h : Invariant s) (l : List Input) : Invariant { s with inputs := l } :=
  ⟨h.memCanonical, h.memInSpace, h.statusBusy, h.statusIdle, h.faultAddr, h.operands, h.scalarSeq,
    h.vectorSeq, h.runUnread, h.unreadLegal, h.racedIn, h.racedOut⟩

/-- Reset with none, with five and with all eight writes of a chunk done. -/
theorem witness_ResetCutsRun : ∀ k ∈ [0, 5, 8],
    Invariant { wideRun 0 1 with inputs := [.reset k] } ∧
    ({ wideRun 0 1 with inputs := [.reset k] } : State).phase ≠ .idle ∧
    RaceFree { wideRun 0 1 with inputs := [.reset k] } := by
  intro k _
  exact ⟨invariant_inputs (invariant_wideRun 0 1 (by decide) (by decide)) _, nofun, rfl, rfl⟩

/-- The block idle after a run of `largest`, before the host has read BUSY = 0. -/
def unreadIdle : State := finish scalarLast

/-- An idle state keeps the invariant whatever races its windows allow. -/
theorem invariant_unreadIdle (racedOut : List Nat) (h : ∀ a ∈ racedOut, racesOut unreadIdle a = true) :
    Invariant { unreadIdle with racedOut := racedOut } :=
  have hr := invariant_scalarLast
  ⟨hr.memCanonical, hr.memInSpace, fun hp => absurd rfl hp, fun _ => .inr (.inl rfl), fun hf => absurd rfl hf,
    fun hp => absurd rfl hp, nofun, nofun, fun hp => absurd rfl hp, hr.unreadLegal, hr.racedIn, h⟩

/-- Busy and idle; the first and the last address of each window, for each kind of access. -/
theorem witness_RacingAccesses :
    (∀ l, Invariant { scalarRun with inputs := l }) ∧ Invariant unreadIdle ∧
    latched largest ∈ scalarRun.unread ∧ latched largest ∈ unreadIdle.unread ∧
    (∀ addr ∈ [0x1000#32, 0x101A#32], memOK scalarRun (addr.toNat : Int) = true ∧
      inInputWindow (latched largest) addr.toNat = true ∧ racesOut scalarRun addr.toNat = false) ∧
    ∀ addr ∈ [0x1100#32, 0x111A#32], memOK scalarRun (addr.toNat : Int) = true ∧
      inOutputWindow (latched largest) addr.toNat = true ∧ racesIn scalarRun addr.toNat = false := by
  refine ⟨invariant_inputs invariant_scalarRun, invariant_unreadIdle [] nofun, by decide, by decide, ?_, ?_⟩ <;>
    intro addr h <;>
    simp only [List.mem_cons, List.not_mem_nil, or_false] at h <;>
    rcases h with rfl | rfl <;> decide

/-- A pixel whose neighbourhood holds the raced byte, as its centre. -/
theorem witness_RacingAccesses_pixel :
    Interior (latched largest) 0 1 1 ∧
      inAddr (latched largest) 0 ((1 : Nat) + rowOffset .e) ((1 : Nat) + colOffset .e) = 0x1004 :=
  ⟨⟨by decide, by decide, by decide, by decide, by decide⟩, by decide⟩

/-- STATUS read while busy, and after the run with the output byte at 0x1104 raced. -/
theorem witness_RacedOutputIsFree :
    Invariant { scalarRun with inputs := [.regRead .b32 0x04#8] } ∧ scalarRun.phase ≠ .idle ∧
    Invariant { { unreadIdle with racedOut := [0x1104] } with inputs := [.regRead .b32 0x04#8] } ∧
    unreadIdle.phase = .idle ∧ 0x1104 ∈ [0x1104] :=
  ⟨invariant_inputs invariant_scalarRun _, by decide, invariant_inputs (invariant_unreadIdle [0x1104] (by decide)) _,
    rfl, by decide⟩

theorem witness_WaitPollsUntilIdle :
    ({ State.reset with inputs := [.wait] } : State).phase = .idle ∧
    ({ scalarRun with inputs := [.wait] } : State).phase ≠ .idle ∧
    ({ scalarRun with inputs := [.wait] } : State).inputs = .wait :: [] := by decide

end Sys2Proof.Tests
end

/-! PROOF. Whole runs of the two detectors (41 R130 to R137, 43 R177 to R190). One run invariant serves both: before
unit `k`, memory holds the pixel function at the pixels of the units numbered below `k` and is otherwise what it was.
It fixes what a finished run leaves, so the two detectors agree. -/

namespace Sys2Proof.Machine

/-! ### One lane of the vector datapath computes the pixel function (43 R178 to R182, R190) -/

/-- A lane of a widened operand is the narrowing of the sample it was loaded with (42 R150). -/
theorem widened_get (b : Win (Oct Byte)) (x : Nbr) (j : Fin 8) :
    ((widened b).get x).get j = u16 (((laneWindow b j).get x).toNat : Int) := by
  simp [widened, laneWindow, widenBytes, zext16_eq_u16]

/-- A lane of the empty sum is the narrowing of 0 (43 R178). -/
theorem laneZero_get (j : Fin 8) : laneZero.get j = u16 0 := Oct.get_const _ j

/-- A lane of SV is the narrowed vertical sum of that lane's samples (43 R178). -/
theorem verticalSum_get (b : Win (Oct Byte)) (j : Fin 8) :
    (verticalSum (widened b)).get j = u16 (sumV (laneWindow b j)) := by
  have lane (x : Nbr) := widened_get b x j
  have sums := ladd_u16 (ladd_u16 (ladd_u16 (ladd_u16 (ladd_u16 (ladd_u16 (laneZero_get j)
    (lneg_u16 (lane .a))) (lneg_u16 (lshl1_u16 (lane .b)))) (lneg_u16 (lane .c))) (lane .g))
    (lshl1_u16 (lane .h))) (lane .i)
  refine sums.trans (congrArg u16 ?_)
  simp only [sumV, Win.get]
  ring

/-- A lane of SH is the narrowed horizontal sum of that lane's samples (43 R179). -/
theorem horizontalSum_get (b : Win (Oct Byte)) (j : Fin 8) :
    (horizontalSum (widened b)).get j = u16 (sumH (laneWindow b j)) := by
  have lane (x : Nbr) := widened_get b x j
  have sums := ladd_u16 (ladd_u16 (ladd_u16 (ladd_u16 (ladd_u16 (ladd_u16 (laneZero_get j)
    (lneg_u16 (lane .a))) (lane .c)) (lneg_u16 (lshl1_u16 (lane .d)))) (lshl1_u16 (lane .f)))
    (lneg_u16 (lane .g))) (lane .i)
  refine sums.trans (congrArg u16 ?_)
  simp only [sumH, Win.get]
  ring

/-- The kernel sums of nine bytes lie in [-1020, 1020] (40 R115). -/
theorem kernelSums_bounds (w : Win Byte) :
    -1020 ≤ sumV w ∧ sumV w ≤ 1020 ∧ -1020 ≤ sumH w ∧ sumH w ≤ 1020 := by
  have small (x : Nbr) : (w.get x).toNat < 256 := (w.get x).isLt
  have := small .a
  have := small .b
  have := small .c
  have := small .d
  have := small .f
  have := small .g
  have := small .h
  have := small .i
  simp only [Win.get] at *
  unfold sumV sumH
  omega

/-- LASR3 of LABS, on a lane whose value is in the range of a kernel sum: floor(abs(v) / 8) (43 R174, R175). -/
theorem lasr3_labs_u16 {x : Oct Lane} {j : Fin 8} {v : Int} (h : x.get j = u16 v) (hlo : -1020 ≤ v)
    (hhi : v ≤ 1020) : (lasr3 (labs x)).get j = u16 (absInt v / 8) := by
  have habs : 0 ≤ absInt v ∧ absInt v ≤ 1020 := by
    unfold absInt
    split_ifs <;> omega
  have hread : (u16 v).toInt = v := toInt_u16 (by omega) (by omega)
  have hread' : (u16 (absInt v)).toInt = absInt v := toInt_u16 (by omega) (by omega)
  rw [lasr3_get, labs_get, h, hread, hread']

/-- The low byte of a narrowed value is the value narrowed to a byte (42 R151). -/
theorem lowByte_u16 (v : Int) : lowByte (u16 v) = u8 v := by
  apply BitVec.eq_of_toNat_eq
  simp only [lowByte, u16, u8, BitVec.extractLsb'_toNat, BitVec.toNat_ofInt, Nat.shiftRight_zero]
  omega

/-- The pixel function as floors of absolute values (41 R131, R133). -/
theorem spx_eq (w : Win Byte) : spx w = u8 (absInt (sumV w) / 8 + absInt (sumH w) / 8) := by
  obtain ⟨hv, hv', hh, hh'⟩ := kernelSums_bounds w
  rw [spx, scalarPixel, toInt_s32 (by omega) (by omega), toInt_s32 (by omega) (by omega), absInt_tdiv,
    absInt_tdiv]

/-- Both arithmetics give the same byte (43 R190). -/
theorem chunkResult_get (b : Win (Oct Byte)) (j : Fin 8) :
    (narrowLanes (chunkResult (verticalSum (widened b)) (horizontalSum (widened b)))).get j =
      spx (laneWindow b j) := by
  obtain ⟨hv, hv', hh, hh'⟩ := kernelSums_bounds (laneWindow b j)
  rw [narrowLanes, Oct.get_map, chunkResult, ladd_u16 (lasr3_labs_u16 (verticalSum_get b j) hv hv')
    (lasr3_labs_u16 (horizontalSum_get b j) hh hh'), lowByte_u16, spx_eq]

/-! ### Which unit the sequencer names: one for both detectors (10 R38, 41 R137, 43 R183) -/

/-- The columns from one unit of a row to the next: a scalar unit has one lane, a full chunk has eight. -/
def stride (ph : Phase) : Nat :=
  match ph with
  | .idle => 1
  | .runS => 1
  | .runV => 8

/-- The active lanes of the first unit of a row (41 R130, 43 R189). -/
def firstWidth (ph : Phase) (w : Word) : Nat :=
  match ph with
  | .idle => 1
  | .runS => 1
  | .runV => firstLanes w

/-- A row of width `w` has a unit with first column `c` and `n` active lanes (41 R137, 43 R183). -/
def InRow (ph : Phase) (w c n : Nat) : Prop :=
  match ph with
  | .idle => False
  | .runS => 1 ≤ c ∧ c + 2 ≤ w ∧ n = 1
  | .runV => (c, n) ∈ chunkList w

/-- The place in its row of the unit with first column `c`: `c - 1` over the stride, rounded up because the
realigned tail chunk starts early. -/
def unitIndex (ph : Phase) (c : Nat) : Nat := (c - 1 + (stride ph - 1)) / stride ph

/-- The units of a row (70 R252). -/
def rowLength (ph : Phase) (w : Nat) : Nat := (w - 2 + (stride ph - 1)) / stride ph

/-- The units of a run (70 R252). -/
def unitCount (ph : Phase) (l : Latch) : Nat := 3 * (l.h.toNat - 2) * rowLength ph l.w.toNat

/-- How many units come before place `i` of row `r` of plane `p`, with `h` rows and `u` units in a row. -/
def unitRank (h u p r i : Nat) : Nat := (p * (h - 2) + (r - 1)) * u + i

/-- The number of the unit at a sequencer position. -/
def seqRank (ph : Phase) (l : Latch) (q : SeqPos) : Nat :=
  unitRank l.h.toNat (rowLength ph l.w.toNat) q.p q.r (unitIndex ph q.c)

/-- The number of the unit that first writes the pixel (p, r, c). -/
def pixelRank (ph : Phase) (l : Latch) (p r c : Nat) : Nat :=
  unitRank l.h.toNat (rowLength ph l.w.toNat) p r ((c - 1) / stride ph)

/-- The sequencer names a unit of a run (10 R38). -/
structure UnitOf (ph : Phase) (l : Latch) (q : SeqPos) : Prop where
  plane : q.p < 3
  rowLow : 1 ≤ q.r
  rowHigh : q.r + 2 ≤ l.h.toNat
  lanes : InRow ph l.w.toNat q.c q.n

/-- A unit's active lanes are interior columns (43 R191). -/
theorem inRow_bounds {ph : Phase} {w c n : Nat} (hw : 3 ≤ w) (h : InRow ph w c n) :
    1 ≤ c ∧ 1 ≤ n ∧ n ≤ 8 ∧ c + n + 1 ≤ w := by
  cases ph with
  | idle => exact h.elim
  | runS => obtain ⟨h1, h2, rfl⟩ := h; omega
  | runV => exact chunk_inRow hw h

/-- Every active lane of a unit is an interior pixel. -/
theorem UnitOf.interior {ph : Phase} {l : Latch} {q : SeqPos} (hu : UnitOf ph l q) (hw : 3 ≤ l.w.toNat)
    {j : Nat} (hj : j < q.n) : Interior l q.p q.r (q.c + j) := by
  have := inRow_bounds hw hu.lanes
  exact ⟨hu.plane, hu.rowLow, hu.rowHigh, by omega, by omega⟩

/-- A unit's place is one of its row's. -/
theorem unitIndex_lt {ph : Phase} {w c n : Nat} (hw : 3 ≤ w) (h : InRow ph w c n) :
    unitIndex ph c < rowLength ph w := by
  cases ph with
  | idle => exact h.elim
  | runS => obtain ⟨h1, h2, rfl⟩ := h; simp only [unitIndex, rowLength, stride]; omega
  | runV =>
    rw [InRow, mem_chunkList] at h
    simp only [unitIndex, rowLength, stride]
    omega

/-- A column's place is one of the row's. -/
theorem columnIndex_lt {ph : Phase} {w c : Nat} (hc : 1 ≤ c) (hc' : c + 2 ≤ w) :
    (c - 1) / stride ph < rowLength ph w := by
  cases ph <;> simp only [rowLength, stride] <;> omega

/-- A column of a unit has the unit's place or, in the realigned tail chunk, an earlier one (43 R184). -/
theorem columnIndex_le {ph : Phase} {w c n j : Nat} (hw : 3 ≤ w) (h : InRow ph w c n) (hj : j < n) :
    (c + j - 1) / stride ph ≤ unitIndex ph c := by
  have := inRow_bounds hw h
  cases ph with
  | idle => exact h.elim
  | runS => obtain ⟨h1, h2, rfl⟩ := h; simp only [unitIndex, stride]; omega
  | runV => simp only [unitIndex, stride]; omega

/-- A column that has a unit's place is one of the unit's (43 R184). -/
theorem column_inUnit {ph : Phase} {w c n col : Nat} (h : InRow ph w c n) (hcol : 1 ≤ col) (hcol' : col + 2 ≤ w)
    (hi : (col - 1) / stride ph = unitIndex ph c) : c ≤ col ∧ col < c + n := by
  cases ph with
  | idle => exact h.elim
  | runS => obtain ⟨h1, h2, rfl⟩ := h; simp only [unitIndex, stride] at hi; omega
  | runV =>
    rw [InRow, mem_chunkList] at h
    simp only [unitIndex, stride] at hi
    omega

/-- The first unit of a row. -/
theorem firstUnit_inRow {ph : Phase} {w : Word} (hp : ph ≠ .idle) (hw : 3 ≤ w.toNat) :
    InRow ph w.toNat 1 (firstWidth ph w) := by
  cases ph with
  | idle => exact (hp rfl).elim
  | runS => exact ⟨le_refl 1, hw, rfl⟩
  | runV => exact firstChunk_mem hw

/-- The first unit has place 0. -/
theorem unitIndex_one (ph : Phase) : unitIndex ph 1 = 0 := by
  cases ph <;> rfl

/-! ### The number of a unit in its run -/

/-- Quotient and remainder are determined by the number they make. -/
theorem eq_of_mul_add_eq {a b d m n : Nat} (hm : m < d) (hn : n < d) (h : a * d + m = b * d + n) :
    a = b ∧ m = n := by
  have hrem : m = n := by
    simpa [Nat.mul_add_mod', Nat.mod_eq_of_lt hm, Nat.mod_eq_of_lt hn] using congrArg (· % d) h
  subst hrem
  exact ⟨Nat.eq_of_mul_eq_mul_right (by omega) (Nat.add_right_cancel h), rfl⟩

/-- Different places have different numbers. -/
theorem unitRank_injective {h u p r i p' r' i' : Nat} (hr : 1 ≤ r) (hr' : r + 2 ≤ h) (hs : 1 ≤ r')
    (hs' : r' + 2 ≤ h) (hi : i < u) (hi' : i' < u) (heq : unitRank h u p r i = unitRank h u p' r' i') :
    p = p' ∧ r = r' ∧ i = i' := by
  obtain ⟨hrow, hplace⟩ := eq_of_mul_add_eq hi hi' heq
  obtain ⟨hplane, hline⟩ := eq_of_mul_add_eq (by omega) (by omega) hrow
  exact ⟨hplane, by omega, hplace⟩

/-- Numbers stay below the number of units in a run. -/
theorem unitRank_lt {h u p r i : Nat} (hp : p < 3) (hr : 1 ≤ r) (hr' : r + 2 ≤ h) (hi : i < u) :
    unitRank h u p r i < 3 * (h - 2) * u := by
  have hplane : p * (h - 2) ≤ 2 * (h - 2) := Nat.mul_le_mul_right _ (by omega)
  have hrow : p * (h - 2) + (r - 1) + 1 ≤ 3 * (h - 2) := by omega
  calc unitRank h u p r i < (p * (h - 2) + (r - 1) + 1) * u := by rw [unitRank, Nat.succ_mul]; omega
    _ ≤ 3 * (h - 2) * u := Nat.mul_le_mul_right _ hrow

/-- After the last place of a row comes the next row. -/
theorem unitRank_nextRow {h u p r i : Nat} (hr : 1 ≤ r) (hi : i + 1 = u) :
    unitRank h u p (r + 1) 0 = unitRank h u p r i + 1 := by
  obtain ⟨r, rfl⟩ : ∃ k, r = k + 1 := ⟨r - 1, by omega⟩
  subst hi
  simp only [unitRank, Nat.add_sub_cancel]
  ring

/-- After the last place of a plane comes the next plane. -/
theorem unitRank_nextPlane {h u p r i : Nat} (hr : r + 2 = h) (hr' : 1 ≤ r) (hi : i + 1 = u) :
    unitRank h u (p + 1) 1 0 = unitRank h u p r i + 1 := by
  obtain ⟨r, rfl⟩ : ∃ k, r = k + 1 := ⟨r - 1, by omega⟩
  subst hi hr
  simp only [unitRank, Nat.add_sub_cancel, Nat.sub_self]
  ring

/-- The last place of the last row of the last plane is the last of the run. -/
theorem unitRank_last {h u r i : Nat} (hr : r + 2 = h) (hr' : 1 ≤ r) (hi : i + 1 = u) :
    unitRank h u 2 r i + 1 = 3 * (h - 2) * u := by
  obtain ⟨r, rfl⟩ : ∃ k, r = k + 1 := ⟨r - 1, by omega⟩
  subst hi hr
  simp only [unitRank, Nat.add_sub_cancel]
  ring

/-- The unit named is one of the run's (70 R252). -/
theorem UnitOf.rank_lt {ph : Phase} {l : Latch} {q : SeqPos} (hu : UnitOf ph l q) (hw : 3 ≤ l.w.toNat) :
    seqRank ph l q < unitCount ph l :=
  unitRank_lt hu.plane hu.rowLow hu.rowHigh (unitIndex_lt hw hu.lanes)

/-- Every interior pixel is written first by one of the run's units. -/
theorem pixelRank_lt {ph : Phase} {l : Latch} {p r c : Nat} (hi : Interior l p r c) :
    pixelRank ph l p r c < unitCount ph l :=
  unitRank_lt hi.plane hi.rowLow hi.rowHigh (columnIndex_lt hi.colLow hi.colHigh)

/-- A unit's pixels have its number or an earlier one. -/
theorem UnitOf.pixelRank_le {ph : Phase} {l : Latch} {q : SeqPos} (hu : UnitOf ph l q) (hw : 3 ≤ l.w.toNat)
    {j : Nat} (hj : j < q.n) : pixelRank ph l q.p q.r (q.c + j) ≤ seqRank ph l q :=
  Nat.add_le_add_left (columnIndex_le hw hu.lanes hj) _

/-- A pixel with a unit's number is one of the unit's. -/
theorem UnitOf.pixel_of_rank {ph : Phase} {l : Latch} {q : SeqPos} (hu : UnitOf ph l q) (hw : 3 ≤ l.w.toNat)
    {p r c : Nat} (hi : Interior l p r c) (h : pixelRank ph l p r c = seqRank ph l q) :
    ∃ j, j < q.n ∧ p = q.p ∧ r = q.r ∧ c = q.c + j := by
  obtain ⟨hp, hr, hx⟩ := unitRank_injective hi.rowLow hi.rowHigh hu.rowLow hu.rowHigh
    (columnIndex_lt hi.colLow hi.colHigh) (unitIndex_lt hw hu.lanes) h
  obtain ⟨hlo, hhi⟩ := column_inUnit hu.lanes hi.colLow hi.colHigh hx
  exact ⟨c - q.c, by omega, hp, hr, by omega⟩

/-! ### The advance: one unit on, or the end of the run (41 R137, 43 R188) -/

/-- The advance of the running detector. -/
def unitAdvance (ph : Phase) (s : State) : State :=
  match ph with
  | .idle => s
  | .runS => scalarAdvance s
  | .runV => vectorAdvance s

/-- Both advances: to the next place of the row, or, the row done, to the next row, the next plane or the end. -/
theorem unitAdvance_cases {ph : Phase} {s : State} (hw : 3 ≤ s.lat.w.toNat)
    (h : InRow ph s.lat.w.toNat s.seq.c s.seq.n) :
    (∃ c n, InRow ph s.lat.w.toNat c n ∧ unitIndex ph c = unitIndex ph s.seq.c + 1 ∧
      unitAdvance ph s = setSeq s ⟨s.seq.p, s.seq.r, c, n⟩) ∨
    unitIndex ph s.seq.c + 1 = rowLength ph s.lat.w.toNat ∧
      (s.seq.r + 2 < s.lat.h.toNat ∧
          unitAdvance ph s = setSeq s ⟨s.seq.p, s.seq.r + 1, 1, firstWidth ph s.lat.w⟩ ∨
        ¬ s.seq.r + 2 < s.lat.h.toNat ∧ s.seq.p < 2 ∧
          unitAdvance ph s = setSeq s ⟨s.seq.p + 1, 1, 1, firstWidth ph s.lat.w⟩ ∨
        ¬ s.seq.r + 2 < s.lat.h.toNat ∧ ¬ s.seq.p < 2 ∧ unitAdvance ph s = finish s) := by
  cases ph with
  | idle => exact h.elim
  | runS =>
    obtain ⟨hc, hc', hn⟩ := h
    have rowDone (hend : ¬ s.seq.c + 2 < s.lat.w.toNat) :
        unitIndex .runS s.seq.c + 1 = rowLength .runS s.lat.w.toNat := by
      simp only [unitIndex, rowLength, stride]; omega
    rcases scalarAdvance_cases s with
      ⟨q, hq, ⟨hin, rfl⟩ | ⟨hend, hr, rfl⟩ | ⟨hend, hr, hp, rfl⟩⟩ | ⟨hend, hr, hp, hf⟩
    · refine .inl ⟨s.seq.c + 1, 1, ⟨by omega, by omega, rfl⟩, ?_, hq⟩
      simp only [unitIndex, stride]
      omega
    · exact .inr ⟨rowDone hend, .inl ⟨hr, hq⟩⟩
    · exact .inr ⟨rowDone hend, .inr (.inl ⟨hr, hp, hq⟩)⟩
    · exact .inr ⟨rowDone hend, .inr (.inr ⟨hr, hp, hf⟩)⟩
  | runV =>
    have hmem := mem_chunkList.mp h
    have rowDone (hend : ¬ (s.seq.n = 8 ∧ s.seq.c + 10 ≤ s.lat.w.toNat)) :
        unitIndex .runV s.seq.c + 1 = rowLength .runV s.lat.w.toNat := by
      simp only [unitIndex, rowLength, stride]; omega
    rcases vectorAdvance_cases s with
      ⟨q, hq, ⟨hn, hin, rfl⟩ | ⟨hend, hr, rfl⟩ | ⟨hend, hr, hp, rfl⟩⟩ | ⟨hend, hr, hp, hf⟩
    · refine .inl ⟨_, 8, nextColumn_mem (hn ▸ h) hin, ?_, hq⟩
      simp only [unitIndex, stride, nextColumn]
      split_ifs <;> omega
    · exact .inr ⟨rowDone hend, .inl ⟨hr, hq⟩⟩
    · exact .inr ⟨rowDone hend, .inr (.inl ⟨hr, hp, hq⟩)⟩
    · exact .inr ⟨rowDone hend, .inr (.inr ⟨hr, hp, hf⟩)⟩

/-- From a unit of the run the advance names the next one, or that was the last and the run is done. -/
theorem unitAdvance_rank {ph : Phase} {s : State} (hw : 3 ≤ s.lat.w.toNat) (hu : UnitOf ph s.lat s.seq) :
    (∃ q, unitAdvance ph s = setSeq s q ∧ UnitOf ph s.lat q ∧
      seqRank ph s.lat q = seqRank ph s.lat s.seq + 1) ∨
    unitAdvance ph s = finish s ∧ seqRank ph s.lat s.seq + 1 = unitCount ph s.lat := by
  obtain ⟨hp, hr, hr', hlanes⟩ := hu
  have hph : ph ≠ .idle := by rintro rfl; exact hlanes
  have hfirst : InRow ph s.lat.w.toNat 1 (firstWidth ph s.lat.w) := firstUnit_inRow hph hw
  rcases unitAdvance_cases hw hlanes with
    ⟨c, n, hin, hc, ha⟩ | ⟨hend, ⟨hrow, ha⟩ | ⟨hrow, hplane, ha⟩ | ⟨hrow, hplane, ha⟩⟩
  · exact .inl ⟨_, ha, ⟨hp, hr, hr', hin⟩, by simp only [seqRank, hc, unitRank]; omega⟩
  · refine .inl ⟨_, ha, ⟨hp, by simp, hrow, hfirst⟩, ?_⟩
    simp only [seqRank, unitIndex_one, unitRank_nextRow hr hend]
  · have hlast : s.seq.r + 2 = s.lat.h.toNat := by omega
    refine .inl ⟨_, ha, ⟨by simp only; omega, le_refl 1, by simp only; omega, hfirst⟩, ?_⟩
    simp only [seqRank, unitIndex_one, unitRank_nextPlane hlast hr hend]
  · have hp2 : s.seq.p = 2 := by omega
    exact .inr ⟨ha, by rw [seqRank, hp2, unitRank_last (by omega) hr hend, unitCount]⟩

/-! ### Where a run writes, and what it reads (20 R63, 40 R117, 43 R192) -/

/-- Interior pixels have output bytes of their own (20 R63). -/
theorem outByte_injective {l : Latch} {p r c p' r' c' : Nat} (hi : Interior l p r c) (hi' : Interior l p' r' c')
    (h : outByte l p r c = outByte l p' r' c') : p = p' ∧ r = r' ∧ c = c' := by
  have hlo := (outAddr_inWindow hi).1
  have hlo' := (outAddr_inWindow hi').1
  have heq : outAddr l p r c = outAddr l p' r' c' := by unfold outByte at h; omega
  obtain ⟨-, -, hr, -, hc⟩ := hi
  obtain ⟨-, -, hr', -, hc'⟩ := hi'
  exact sampleAddr_injective l.outBase l (by omega) (by omega) (by omega) (by omega) heq

/-- Memory responds at every address of a window it stands behind. -/
theorem Responds.memOK {s : State} {base len : Nat} (h : Responds s base len) {a : Int} (hlo : (base : Int) ≤ a)
    (hhi : a < base + len) : memOK s a = true := by
  obtain ⟨n, rfl⟩ := Int.eq_ofNat_of_zero_le (by omega : 0 ≤ a)
  exact h n (by omega) (by omega)

/-- A neighbourhood depends on no byte of the output window: the windows are disjoint (60 R216). -/
theorem neighbourhood_congr {l : Latch} (hl : LatchLegal l) {m m' : Memory}
    (h : ∀ a, (∀ p r c, Interior l p r c → a ≠ outByte l p r c) → Memory.read m a = Memory.read m' a)
    {p r c : Nat} (hi : Interior l p r c) : neighbourhood l m p r c = neighbourhood l m' p r c := by
  apply Win.ext_get
  intro x
  simp only [neighbourhood, Win.get_ofFn]
  apply h
  intro p' r' c' hi'
  have hin := neighbour_inWindow hi x
  have hout := outAddr_inWindow hi'
  have hdis := hl.disjoint
  unfold outByte
  omega

/-! ### One unit of an undisturbed run (41 R136, 43 R187) -/

/-- What a unit does not write: the state with memory, the sequencer, the datapath and the draws blanked. -/
def runFrame (s : State) : State :=
  { s with
    seq := ⟨0, 0, 0, 0⟩
    vop := State.reset.vop
    sv := State.reset.sv
    sh := State.reset.sh
    vr := State.reset.vr
    ssv := 0#32
    ssh := 0#32
    mem := []
    draws := 0 }

/-- Two states with one frame have the same phase, latched operands, memory map, waiting operations and races. -/
theorem fields_of_frame {s t : State} (h : runFrame t = runFrame s) :
    t.phase = s.phase ∧ t.lat = s.lat ∧ t.memMap = s.memMap ∧ t.inputs = s.inputs ∧ t.racedIn = s.racedIn ∧
      t.racedOut = s.racedOut :=
  ⟨(congrArg State.phase h :), (congrArg State.lat h :), (congrArg State.memMap h :), (congrArg State.inputs h :),
    (congrArg State.racedIn h :), (congrArg State.racedOut h :)⟩

/-- Two states with one frame have the same operand and LANE registers. -/
theorem sameRegisters_of_frame {s t : State} (h : runFrame t = runFrame s) : SameRegisters s t :=
  ⟨(congrArg State.bpp h :), (congrArg State.width h :), (congrArg State.height h :), (congrArg State.inBase h :),
    (congrArg State.outBase h :), (congrArg State.laneB0 h :), (congrArg State.laneB1 h :),
    (congrArg State.laneW0 h :), (congrArg State.laneW1 h :), (congrArg State.laneW2 h :),
    (congrArg State.laneW3 h :)⟩

/-- The unit at `q` takes memory from `m` to `m'`: the pixel function at its active lanes, nothing else. -/
structure UnitWrites (l : Latch) (q : SeqPos) (m m' : Memory) : Prop where
  canonical : Memory.wf m' = true
  written : ∀ j, j < q.n →
    Memory.read m' (outByte l q.p q.r (q.c + j)) = spx (neighbourhood l m q.p q.r (q.c + j))
  others : ∀ a, (∀ j, j < q.n → a ≠ outByte l q.p q.r (q.c + j)) → Memory.read m' a = Memory.read m a

/-- `t` is `s` with the unit performed and not yet advanced. -/
structure UnitDone (s t : State) : Prop where
  frame : runFrame t = runFrame s
  seq : t.seq = s.seq
  memory : UnitWrites s.lat s.seq s.mem t.mem

/-- The writes of the unit at the sequencer position: the pixel function at its active lanes, in ascending column. -/
def pixelWrites (s : State) : List (Int × Byte) :=
  (List.range s.seq.n).map fun j =>
    (outAddr s.lat s.seq.p s.seq.r ((s.seq.c + j : Nat) : Int),
      spx (neighbourhood s.lat s.mem s.seq.p s.seq.r (s.seq.c + j)))

/-- With memory behind the output window, all of a unit's writes are done, and the advance follows. -/
theorem storeThen_pixelWrites {ph : Phase} {s s' : State} (hu : UnitOf ph s.lat s.seq) (hw : 3 ≤ s.lat.w.toNat)
    (hb : Backed s s.lat) (hc : Memory.wf s.mem = true) (hf : runFrame s' = runFrame s) (hq : s'.seq = s.seq)
    (hm : s'.mem = s.mem) (adv : State → State) :
    ∃ t, storeThen s' (pixelWrites s) adv = adv t ∧ UnitDone s t := by
  have hc' : Memory.wf s'.mem = true := hm ▸ hc
  obtain ⟨-, -, hmap, -⟩ := fields_of_frame hf
  have hok : ∀ w ∈ pixelWrites s, memOK s' w.1 = true := by
    intro w hmem
    obtain ⟨j, hj, rfl⟩ := List.mem_map.mp hmem
    obtain ⟨hlo, hhi⟩ := outAddr_inWindow (hu.interior hw (List.mem_range.mp hj))
    exact (memOK_congr hmap _).trans (hb.2.memOK hlo hhi)
  have hnodup : ((pixelWrites s).map Prod.fst).Nodup := by
    rw [pixelWrites, List.map_map]
    refine List.Nodup.map_on (fun i hi j hj heq => ?_) List.nodup_range
    have := outByte_injective (hu.interior hw (List.mem_range.mp hi)) (hu.interior hw (List.mem_range.mp hj))
      (congrArg Int.toNat heq)
    omega
  refine ⟨_, storeThen_done hok adv, ?_, ?_, storeBytes_wf _ hc', fun j hj => ?_, fun a ha => ?_⟩
  · rw [storeBytes_frame]; exact hf
  · rw [storeBytes_frame]; exact hq
  · exact storeBytes_read_written _ hc' hok hnodup _ (List.mem_map.mpr ⟨j, List.mem_range.mpr hj, rfl⟩)
  · rw [storeBytes_read_other _ hc' a, hm]
    intro w hmem
    obtain ⟨j, hj, rfl⟩ := List.mem_map.mp hmem
    exact (ha j (List.mem_range.mp hj)).symm

/-- A neighbour of lane `j` of a chunk is that neighbour of the pixel in column `c + j` (40 R120). -/
theorem nbrAddr_add (s : State) (x : Nbr) (j : Nat) :
    nbrAddr s x + j = inAddr s.lat s.seq.p (s.seq.r + rowOffset x) ((s.seq.c + j : Nat) + colOffset x) := by
  simp only [nbrAddr, inAddr, sampleAddr]
  push_cast
  ring

/-- Memory stands behind every sample a unit's active lanes read (43 R192). -/
theorem unitReads_ok {ph : Phase} {s : State} (hu : UnitOf ph s.lat s.seq) (hw : 3 ≤ s.lat.w.toNat)
    (hb : Backed s s.lat) (x : Nbr) {j : Nat} (hj : j < s.seq.n) : memOK s (nbrAddr s x + j) = true := by
  obtain ⟨hlo, hhi⟩ := neighbour_inWindow (hu.interior hw hj) x
  rw [nbrAddr_add]
  exact hb.1.memOK hlo hhi

/-- An undisturbed scalar unit writes its pixel and advances (41 R136). -/
theorem scalarUnit_done {s : State} (hu : UnitOf .runS s.lat s.seq) (hw : 3 ≤ s.lat.w.toNat)
    (hb : Backed s s.lat) (hq : RaceFree s) (hc : Memory.wf s.mem = true) :
    ∃ t, scalarUnit s = scalarAdvance t ∧ UnitDone s t := by
  obtain ⟨-, -, hn⟩ := hu.lanes
  have hreads : ∀ x, memOK (nextDraw s) (nbrAddr (nextDraw s) x) = true := fun x => by
    have := unitReads_ok hu hw hb x (j := 0) (by omega)
    rwa [Nat.cast_zero, add_zero] at this
  have hsamples : scalarSamples (nextDraw s) = neighbourhood s.lat s.mem s.seq.p s.seq.r s.seq.c :=
    scalarSamples_eq (s := nextDraw s) hq
  have hunit : scalarUnit s =
      storeThen (accumulate (nextDraw s) (scalarSamples (nextDraw s))) (pixelWrites s) scalarAdvance := by
    simp [scalarUnit, scalarLoad_done hreads, scalarStores_accumulate, pixelWrites, hn, hsamples]
  exact hunit ▸ storeThen_pixelWrites hu hw hb hc (by rfl) (by rfl) (by rfl) _

/-- Lane `j` of the samples an undisturbed chunk loads holds the neighbourhood of the pixel in column `c + j`
(43 R177). -/
theorem laneSamples_window {s : State} (hq : RaceFree s) {j : Fin 8} (hj : j.val < s.seq.n) :
    laneWindow (Win.ofFn (laneSamples s)) j = neighbourhood s.lat s.mem s.seq.p s.seq.r (s.seq.c + j.val) := by
  apply Win.ext_get
  intro x
  simp [laneWindow, laneSamples, hj, blockRead, hq.1, hq.2, neighbourhood, nbrAddr_add]

/-- The writes of an undisturbed chunk are the pixel function at its active lanes (43 R181, R190). -/
theorem vectorStores_chunkDone {s : State} (hq : RaceFree s) (hn : s.seq.n ≤ 8) :
    vectorStores (chunkDone s) = pixelWrites s := by
  have hrange : List.range s.seq.n = (activeLanes s.seq.n).map Fin.val := by
    generalize s.seq.n = n at hn
    interval_cases n <;> rfl
  rw [pixelWrites, hrange, List.map_map]
  refine List.map_congr_left fun j hj => ?_
  rw [Function.comp_apply, ← laneSamples_window hq ((mem_activeLanes _ j).mp hj), ← chunkResult_get]
  push_cast
  rfl

/-- An undisturbed vector unit writes its chunk and advances (43 R187). -/
theorem vectorUnit_done {s : State} (hu : UnitOf .runV s.lat s.seq) (hw : 3 ≤ s.lat.w.toNat)
    (hb : Backed s s.lat) (hq : RaceFree s) (hc : Memory.wf s.mem = true) :
    ∃ t, vectorUnit s = vectorAdvance t ∧ UnitDone s t := by
  obtain ⟨-, -, hn, -⟩ := inRow_bounds hw hu.lanes
  have hreads : ∀ x, ∀ j : Fin 8, j.val < (nextDraw s).seq.n →
      memOK (nextDraw s) (nbrAddr (nextDraw s) x + j.val) = true := fun x _ hj => unitReads_ok hu hw hb x hj
  have hstores : vectorStores (chunkDone (nextDraw s)) = pixelWrites s :=
    vectorStores_chunkDone (s := nextDraw s) hq hn
  have hunit : vectorUnit s = storeThen (chunkDone (nextDraw s)) (pixelWrites s) vectorAdvance := by
    simp [vectorUnit, vectorLoad_done hreads, hstores]
  exact hunit ▸ storeThen_pixelWrites hu hw hb hc (by rfl) (by rfl) (by rfl) _

/-- A turn of the running block performs the unit and advances (10 R38). -/
theorem blockStep_unitDone {s : State} (hu : UnitOf s.phase s.lat s.seq) (hw : 3 ≤ s.lat.w.toNat)
    (hb : Backed s s.lat) (hq : RaceFree s) (hc : Memory.wf s.mem = true) :
    ∃ t, blockStep s = unitAdvance s.phase t ∧ UnitDone s t := by
  cases hph : s.phase with
  | idle => rw [hph] at hu; exact hu.lanes.elim
  | runS => rw [blockStep_runS hph]; exact scalarUnit_done (hph ▸ hu) hw hb hq hc
  | runV => rw [blockStep_runV hph]; exact vectorUnit_done (hph ▸ hu) hw hb hq hc

/-! ### The run invariant: what memory holds before unit `k` -/

/-- Memory before unit `k` of a run that began with memory `m₀`: the pixels of the units before it are written. -/
structure WrittenBefore (ph : Phase) (l : Latch) (m₀ : Memory) (k : Nat) (m : Memory) : Prop where
  canonical : Memory.wf m = true
  written : ∀ p r c, Interior l p r c → pixelRank ph l p r c < k →
    Memory.read m (outByte l p r c) = spx (neighbourhood l m₀ p r c)
  others : ∀ a, (∀ p r c, Interior l p r c → pixelRank ph l p r c < k → a ≠ outByte l p r c) →
    Memory.read m a = Memory.read m₀ a

/-- Before the first unit nothing is written. -/
theorem writtenBefore_zero {ph : Phase} {l : Latch} {m : Memory} (h : Memory.wf m = true) :
    WrittenBefore ph l m 0 m :=
  ⟨h, fun _ _ _ _ hlt => absurd hlt (Nat.not_lt_zero _), fun _ _ => rfl⟩

/-- The unit numbered `k` takes memory before unit `k` to memory before unit `k + 1`. A pixel of the realigned tail
chunk that an earlier chunk wrote gets the same byte again (43 R184). -/
theorem WrittenBefore.step {ph : Phase} {l : Latch} {m₀ m m' : Memory} {q : SeqPos} (hl : LatchLegal l)
    (h : WrittenBefore ph l m₀ (seqRank ph l q) m) (hu : UnitOf ph l q) (hm : UnitWrites l q m m') :
    WrittenBefore ph l m₀ (seqRank ph l q + 1) m' := by
  refine ⟨hm.canonical, fun p r c hi hlt => ?_, fun a ha => ?_⟩
  · by_cases hin : ∃ j, j < q.n ∧ p = q.p ∧ r = q.r ∧ c = q.c + j
    · obtain ⟨j, hj, rfl, rfl, rfl⟩ := hin
      have hsame : neighbourhood l m q.p q.r (q.c + j) = neighbourhood l m₀ q.p q.r (q.c + j) :=
        neighbourhood_congr hl (fun a ha => h.others a fun p r c hi _ => ha p r c hi) hi
      rw [hm.written j hj, hsame]
    · have hne : pixelRank ph l p r c ≠ seqRank ph l q := fun heq => hin (hu.pixel_of_rank hl.width hi heq)
      rw [hm.others, h.written p r c hi (by omega)]
      intro j hj heq
      exact hin ⟨j, hj, outByte_injective hi (hu.interior hl.width hj) heq⟩
  · rw [hm.others, h.others a fun p r c hi hlt => ha p r c hi (by omega)]
    intro j hj
    exact ha _ _ _ (hu.interior hl.width hj) (Nat.lt_succ_of_le (hu.pixelRank_le hl.width hj))

/-! ### From acceptance to the end of the run -/

/-- The state after acceptance of a DETECT command from a ready state (41 R130, 43 R189). -/
def accepted (ph : Phase) (s : State) : State :=
  { s with
    status := statusClear
    faultAddr := 0#32
    unread := latched s :: s.unread
    lat := latched s
    phase := ph
    seq := ⟨0, 1, 1, firstWidth ph s.width⟩ }

/-- A ready block accepts a DETECT command (60 R218). -/
theorem issue_startDetect {ph : Phase} {s : State} (hr : Ready s) :
    issue s (startDetect ph (firstWidth ph s.width)) = accepted ph s := by
  have hcheck : checkDetectOperands (acceptClear s) = none :=
    checkDetectOperands_eq_none.mpr ⟨hr.depth, hr.legal⟩
  have hopen := openWindows_of_raceFree (s := acceptClear s) hr.quiet (latched s)
  rw [issue_idle hr.idle, startDetect, hcheck]
  simp only [latched_acceptClear, hopen]
  rfl

/-- The run of a ready state's command is about to perform unit `k`. -/
structure RunningAt (ph : Phase) (s : State) (k : Nat) (t : State) : Prop where
  frame : runFrame t = runFrame (accepted ph s)
  unit : UnitOf ph (latched s) t.seq
  rank : seqRank ph (latched s) t.seq = k
  memory : WrittenBefore ph (latched s) s.mem k t.mem

/-- An accepted command is about to perform its first unit. -/
theorem runningAt_accepted {ph : Phase} {s : State} (hr : Ready s) (hph : ph ≠ .idle) :
    RunningAt ph s 0 (accepted ph s) where
  frame := rfl
  unit := ⟨by simp [accepted], le_refl 1, hr.legal.height, firstUnit_inRow hph hr.legal.width⟩
  rank := by simp [seqRank, unitRank, accepted, unitIndex_one]
  memory := writtenBefore_zero hr.canonical

/-- Throughout a ready state's run the command's phase and operands stand, nothing waits, nothing races, and memory
stands behind both windows. -/
theorem RunningAt.undisturbed {ph : Phase} {s t : State} {k : Nat} (hr : Ready s) (h : RunningAt ph s k t) :
    t.phase = ph ∧ t.lat = latched s ∧ t.inputs = [] ∧ RaceFree t ∧ Backed t (latched s) := by
  obtain ⟨hphase, hlat, hmap, hinputs, hin, hout⟩ := fields_of_frame h.frame
  have hresponds {base len : Nat} (hb : Responds s base len) : Responds t base len :=
    fun a hlo hhi => (memOK_congr hmap a).trans (hb a hlo hhi)
  exact ⟨hphase, hlat, hinputs.trans hr.alone, ⟨hin.trans hr.quiet.1, hout.trans hr.quiet.2⟩,
    hresponds hr.backed.1, hresponds hr.backed.2⟩

/-- A turn of the running block: on to the next unit, or the run is done (41 R137, 43 R188). -/
theorem RunningAt.step {ph : Phase} {s t : State} {k : Nat} (hr : Ready s) (h : RunningAt ph s k t) :
    RunningAt ph s (k + 1) (blockStep t) ∨
    k + 1 = unitCount ph (latched s) ∧ ∃ u, blockStep t = finish u ∧ runFrame u = runFrame (accepted ph s) ∧
      WrittenBefore ph (latched s) s.mem (k + 1) u.mem := by
  obtain ⟨hphase, hlat, -, hquiet, hbacked⟩ := h.undisturbed hr
  obtain ⟨hf, hu, rfl, hm⟩ := h
  obtain ⟨v, hstep, hvf, hvq, hvm⟩ := blockStep_unitDone (s := t) (by rwa [hphase, hlat])
    (hlat ▸ hr.legal.width) (hlat ▸ hbacked) hquiet hm.canonical
  obtain ⟨-, hvlat, -⟩ := fields_of_frame hvf
  rw [hlat] at hvlat
  have hmem := hm.step hr.legal hu (hlat ▸ hvm)
  rw [hstep, hphase]
  rcases unitAdvance_rank (ph := ph) (s := v) (hvlat ▸ hr.legal.width) (by rwa [hvlat, hvq]) with
    ⟨q, ha, hq, hrank⟩ | ⟨ha, hrank⟩
  · rw [hvlat] at hq hrank
    rw [ha]
    exact .inl ⟨hvf.trans hf, hq, by rw [setSeq_seq, hrank, hvq], hmem⟩
  · rw [hvlat, hvq] at hrank
    exact .inr ⟨hrank, v, ha, hvf.trans hf, hmem⟩

/-- Before its last unit is done the run goes on (70 R252). -/
theorem runningAt_iterate {ph : Phase} {s : State} (hr : Ready s) (hph : ph ≠ .idle) {k : Nat}
    (hk : k < unitCount ph (latched s)) : RunningAt ph s k (blockStep^[k] (accepted ph s)) := by
  induction k with
  | zero => exact runningAt_accepted hr hph
  | succ k ih =>
    rw [Function.iterate_succ_apply']
    rcases (ih (by omega)).step hr with h | ⟨hlast, -⟩
    · exact h
    · omega

/-- What a finished run leaves (20 R82, 40 R118, 70 R254). -/
theorem runResult_finish {ph : Phase} {s u : State} (hr : Ready s) (hf : runFrame u = runFrame (accepted ph s))
    (hm : WrittenBefore ph (latched s) s.mem (unitCount ph (latched s)) u.mem) : RunResult s (finish u) where
  status := by simp [statusWord, busy, statusDone]
  idle := rfl
  faultAddr := (congrArg State.faultAddr hf :)
  inputs := (congrArg State.inputs hf :).trans hr.alone
  interior p r c hi := hm.written p r c hi (pixelRank_lt hi)
  elsewhere a ha := hm.others a fun p r c hi _ => ha p r c hi
  registers := (sameRegisters_of_frame hf :)

/-- An accepted command's units end with the whole result (70 R252, R254). -/
theorem iterate_runResult {ph : Phase} {s : State} (hr : Ready s) (hph : ph ≠ .idle) :
    RunResult s (blockStep^[unitCount ph (latched s)] (accepted ph s)) ∧
      Memory.wf (blockStep^[unitCount ph (latched s)] (accepted ph s)).mem = true := by
  have hpos : 0 < unitCount ph (latched s) :=
    Nat.zero_lt_of_lt ((runningAt_accepted hr hph).unit.rank_lt hr.legal.width)
  obtain ⟨k, hk⟩ := Nat.exists_eq_succ_of_ne_zero hpos.ne'
  have hrun := runningAt_iterate hr hph (k := k) (by omega)
  rw [hk, Function.iterate_succ_apply']
  rcases hrun.step hr with h | ⟨hlast, u, hu, hf, hm⟩
  · have := h.unit.rank_lt hr.legal.width
    have := h.rank
    omega
  · rw [hu]
    exact ⟨runResult_finish hr hf (hlast ▸ hm), hm.canonical⟩

/-! ### The run as steps of the machine -/

/-- A first step taken, the rest of the run follows. -/
theorem run_succ {s t : State} (h : step s = .next t) (k : Nat) :
    Sys2Proof.core.run (k + 1) s = Sys2Proof.core.run k t := by
  simp only [Host.Core.run, Host.Check.core_step, h]

/-- With nothing waiting, `k` steps are `k` turns of the block (70 R252). -/
theorem run_alone {k : Nat} : ∀ {s : State}, (∀ i, i < k → (blockStep^[i] s).inputs = []) →
    Sys2Proof.core.run k s = .next (blockStep^[k] s) := by
  induction k with
  | zero => intro s _; rfl
  | succ k ih =>
    intro s h
    exact (run_succ (step_alone (h 0 (by omega))) k).trans (ih fun i hi => h (i + 1) (by omega))

/-- The CMD write of a DETECT command and as many steps as the run has units end with the whole result
(70 R252, R254; the write is served first: log entry 2). -/
theorem detect_completes {ph : Phase} {s : State} (hr : Ready s) (hph : ph ≠ .idle) {word : Nat}
    (hcmd : step (s.withFetchWord 32 word) = .next (issue s (startDetect ph (firstWidth ph s.width)))) :
    ∃ t, Sys2Proof.core.run (1 + unitCount ph (latched s)) (s.withFetchWord 32 word) = .next t ∧
      RunResult s t ∧ Memory.wf t.mem = true := by
  refine ⟨_, ?_, iterate_runResult hr hph⟩
  rw [Nat.add_comm, run_succ (issue_startDetect (ph := ph) hr ▸ hcmd)]
  refine run_alone fun i hi => ?_
  obtain ⟨-, -, hinputs, -⟩ := (runningAt_iterate hr hph hi).undisturbed hr
  exact hinputs

/-- DETECT.S from a ready state (41 R130, R137). -/
theorem detectS_completes {s : State} (hr : Ready s) :
    ∃ t, Sys2Proof.core.run (1 + 3 * (s.width.toNat - 2) * (s.height.toNat - 2))
        (s.withFetchWord 32 0x00000001) = .next t ∧ RunResult s t ∧ Memory.wf t.mem = true := by
  have hcount : unitCount .runS (latched s) = 3 * (s.width.toNat - 2) * (s.height.toNat - 2) := by
    simp only [unitCount, rowLength, stride, latched, Nat.sub_self, Nat.add_zero, Nat.div_one]
    ring
  exact hcount ▸ detect_completes hr (ph := .runS) nofun (step_withFetchWord s 32 _)

/-- DETECT.V from a ready state (43 R188, R189). -/
theorem detectV_completes {s : State} (hr : Ready s) :
    ∃ t, Sys2Proof.core.run (1 + 3 * (s.height.toNat - 2) * ((s.width.toNat - 2 + 7) / 8))
        (s.withFetchWord 32 0x00000011) = .next t ∧ RunResult s t ∧ Memory.wf t.mem = true :=
  detect_completes hr (ph := .runV) nofun (step_withFetchWord s 32 _)

/-! ### The detectors agree -/

/-- The result fixes memory: two completed runs from one state leave the same memory, byte for byte. -/
theorem RunResult.mem_eq {s t u : State} (ht : RunResult s t) (hu : RunResult s u) (htc : Memory.wf t.mem = true)
    (huc : Memory.wf u.mem = true) : t.mem = u.mem := by
  refine eq_of_read_eq htc huc fun a => ?_
  by_cases ha : ∃ p r c, Interior (latched s) p r c ∧ a = outByte (latched s) p r c
  · obtain ⟨p, r, c, hi, rfl⟩ := ha
    rw [ht.interior p r c hi, hu.interior p r c hi]
  · have hout : ∀ p r c, Interior (latched s) p r c → a ≠ outByte (latched s) p r c :=
      fun p r c hi heq => ha ⟨p, r, c, hi, heq⟩
    rw [ht.elsewhere a hout, hu.elsewhere a hout]

/-- Settles O45: each detector completes with the result that 20 R82 gives, and that result fixes memory and STATUS. -/
theorem detectorsAgree : Obligations.DetectorsAgree := by
  intro s hr
  obtain ⟨t, hrunS, ht, htc⟩ := detectS_completes hr
  obtain ⟨u, hrunV, hu, huc⟩ := detectV_completes hr
  exact ⟨t, u, hrunS, hrunV, ht.mem_eq hu htc huc, ht.status.trans hu.status.symm⟩

end Sys2Proof.Machine

/-! PROOF. Every step keeps the invariant: one lemma for each operation of the model on the state, and a step is one of
them (10 R20). -/

namespace Sys2Proof.Machine

/-! ### What the invariant speaks of -/

/-- The part of the state the invariant speaks of, the rest as after reset. -/
def invariantView (s : State) : State :=
  { State.reset with
    phase := s.phase
    status := s.status
    faultAddr := s.faultAddr
    lat := s.lat
    seq := s.seq
    mem := s.mem
    unread := s.unread
    racedIn := s.racedIn
    racedOut := s.racedOut }

/-- The invariant speaks of no more than its view. -/
theorem invariant_view {s : State} : Invariant (invariantView s) ↔ Invariant s :=
  ⟨fun h => { h with }, fun h => { h with }⟩

/-- A state with the same view as one that meets the invariant meets it. -/
theorem Invariant.of_view {s t : State} (h : Invariant s) (hv : invariantView t = invariantView s) : Invariant t :=
  invariant_view.mp (hv ▸ invariant_view.mpr h)

/-- While a command runs, the sequencer names one of its units (10 R38). -/
theorem Invariant.unitOf {s : State} (h : Invariant s) (hb : s.phase ≠ .idle) : UnitOf s.phase s.lat s.seq := by
  cases hph : s.phase with
  | idle => exact absurd hph hb
  | runS =>
    obtain ⟨hi, hn⟩ := h.scalarSeq hph
    exact ⟨hi.plane, hi.rowLow, hi.rowHigh, hi.colLow, hi.colHigh, hn⟩
  | runV =>
    obtain ⟨hp, hr, hr', hmem⟩ := h.vectorSeq hph
    exact ⟨hp, hr, hr', hmem⟩

/-- A unit of a scalar run is one interior pixel (41 R136). -/
theorem UnitOf.pixel {l : Latch} {q : SeqPos} (hu : UnitOf .runS l q) : Interior l q.p q.r q.c ∧ q.n = 1 := by
  obtain ⟨hp, hr, hr', hc, hc', hn⟩ := hu
  exact ⟨⟨hp, hr, hr', hc, hc'⟩, hn⟩

/-- A unit of a vector run is a chunk of CH(W) in an interior row (43 R187). -/
theorem UnitOf.chunk {l : Latch} {q : SeqPos} (hu : UnitOf .runV l q) :
    q.p < 3 ∧ 1 ≤ q.r ∧ q.r + 2 ≤ l.h.toNat ∧ (q.c, q.n) ∈ chunkList l.w.toNat :=
  ⟨hu.plane, hu.rowLow, hu.rowHigh, hu.lanes⟩

/-- While a command runs, FAULT_ADDR is 0 (10 R26). -/
theorem Invariant.faultAddr_busy {s : State} (h : Invariant s) (hb : s.phase ≠ .idle) : s.faultAddr = 0#32 := by
  by_contra hf
  exact hb (h.faultAddr hf).1

/-- The raced output bytes are bytes of the address space (20 R60, R65). -/
theorem Invariant.racedOut_inSpace {s : State} (h : Invariant s) {a : Nat} (ha : a ∈ s.racedOut) :
    a < Config.spaceSize := by
  obtain ⟨l, hl, hin⟩ := List.any_eq_true.mp (h.racedOut a ha)
  have hrange := (h.unreadLegal l hl).outRange
  simp only [inOutputWindow, Bool.and_eq_true, decide_eq_true_eq] at hin
  exact lt_of_lt_of_le hin.2 hrange

/-! ### Memory and the sequencer

`invariant_op`, here and below: from a state that meets the invariant, `op` leads to one that meets it. -/

section
variable {s : State} (h : Invariant s)
include h

/-- Other contents of memory, canonical and inside the address space (20 R60). -/
theorem invariant_setMem {m : Memory} (hc : Memory.wf m = true) (hs : Memory.inSpace m = true) :
    Invariant (setMem s m) :=
  { h with memCanonical := hc, memInSpace := hs }

/-- A byte stored at an address of the space. -/
theorem invariant_storeByte {a : Nat} (ha : a < Config.spaceSize) (b : Byte) : Invariant (storeByte s a b) :=
  invariant_setMem h (write_wf h.memCanonical a b) (write_inSpace h.memInSpace ha b)

/-- The writes of a unit, up to a failing one (60 R220). -/
theorem invariant_storeBytes (l : List (Int × Byte)) : Invariant (storeBytes s l).1 := by
  rw [storeBytes_frame]
  exact invariant_setMem h (storeBytes_wf l h.memCanonical) (storeBytes_inSpace l h.memInSpace)

/-- The sequencer moved to another unit of the run (10 R38). -/
theorem invariant_setSeq {q : SeqPos} (hu : UnitOf s.phase s.lat q) : Invariant (setSeq s q) :=
  { h with
    scalarSeq := fun hph => (hph ▸ hu : UnitOf .runS s.lat q).pixel
    vectorSeq := fun hph => (hph ▸ hu : UnitOf .runV s.lat q).chunk }

/-! ### The end of a command -/

/-- A command ended with a legal STATUS, and FAULT_ADDR 0 but after a BUS_ERROR (10 R25, R26). -/
theorem invariant_ended {st : Status} {fa : Word}
    (hst : st = statusClear ∨ st = statusDone ∨ ∃ e, st = statusError e)
    (hfa : fa ≠ 0#32 → st = statusError .busError) :
    Invariant { s with phase := .idle, status := st, faultAddr := fa } :=
  { h with
    statusBusy := fun hb => absurd rfl hb
    statusIdle := fun _ => hst
    faultAddr := fun hf => ⟨rfl, hfa hf⟩
    operands := fun hb => absurd rfl hb
    scalarSeq := nofun
    vectorSeq := nofun
    runUnread := fun hb => absurd rfl hb }

/-- The error entry (60 R219). -/
theorem invariant_raiseError (e : ErrCode) (addr : Word) : Invariant (raiseError s e addr) := by
  refine invariant_ended h (.inr (.inr ⟨e, rfl⟩)) fun hf => ?_
  by_cases he : e = .busError
  · rw [he]
  · exact absurd (if_neg he) hf

/-- A failing access of a run (60 R217). -/
theorem invariant_busFailure (a : Int) : Invariant (busFailure s a) :=
  invariant_raiseError h .busError _

/-- The end of a run (70 R254). -/
theorem invariant_finish (hf : s.faultAddr = 0#32) : Invariant (finish s) :=
  invariant_ended h (.inr (.inl rfl)) fun hne => absurd hf hne

/-- Reset of the block (70 R241 to R243). -/
theorem invariant_resetBlock : Invariant (resetBlock s) :=
  { h with
    statusBusy := fun hb => absurd rfl hb
    statusIdle := fun _ => .inl rfl
    faultAddr := fun hf => absurd rfl hf
    operands := fun hb => absurd rfl hb
    scalarSeq := nofun
    vectorSeq := nofun
    runUnread := fun hb => absurd rfl hb }

/-! ### A unit of the run -/

/-- The advance after a unit (41 R137, 43 R188). -/
theorem invariant_unitAdvance {ph : Phase} (hph : s.phase = ph) (hb : ph ≠ .idle) : Invariant (unitAdvance ph s) := by
  subst hph
  rcases unitAdvance_rank (h.operands hb).width (h.unitOf hb) with ⟨q, ha, hu, -⟩ | ⟨ha, -⟩
  · rw [ha]; exact invariant_setSeq h hu
  · rw [ha]; exact invariant_finish h (h.faultAddr_busy hb)

/-- A unit's writes, then its advance. -/
theorem invariant_storeThen {ph : Phase} (hph : s.phase = ph) (hb : ph ≠ .idle) (l : List (Int × Byte)) :
    Invariant (storeThen s l (unitAdvance ph)) := by
  have hstored : Invariant (setMem s (storeBytes s l).1.mem) := storeBytes_frame l s ▸ invariant_storeBytes h l
  rcases storeThen_cases s l (unitAdvance ph) with ⟨a, -, heq⟩ | ⟨-, heq⟩
  · rw [heq]; exact invariant_busFailure hstored a
  · rw [heq]; exact invariant_unitAdvance hstored hph hb

/-- The block's turn (10 R38). -/
theorem invariant_blockStep : Invariant (blockStep s) := by
  have hdraw : Invariant (nextDraw s) := h.of_view rfl
  cases hph : s.phase with
  | idle => rw [blockStep_idle hph]; exact h
  | runS =>
    have hsums : Invariant (accumulate (nextDraw s) (scalarSamples (nextDraw s))) := h.of_view rfl
    rw [blockStep_runS hph]
    rcases scalarUnit_cases s with ⟨a, -, heq⟩ | ⟨-, heq⟩
    · rw [heq]; exact invariant_busFailure hdraw a
    · rw [heq]; exact invariant_storeThen hsums hph (by decide) _
  | runV =>
    have hchunk : Invariant (chunkDone (nextDraw s)) := h.of_view rfl
    rw [blockStep_runV hph]
    rcases vectorUnit_cases s with ⟨a, v, -, heq⟩ | ⟨-, heq⟩
    · have hloaded : Invariant (setVop (nextDraw s) v) := h.of_view rfl
      rw [heq]; exact invariant_busFailure hloaded a
    · rw [heq]; exact invariant_storeThen hchunk hph (by decide) _

/-! ### A command accepted (30 R94) -/

/-- STATUS and FAULT_ADDR cleared. -/
theorem invariant_acceptClear : Invariant (acceptClear s) :=
  { h with
    statusBusy := fun _ => rfl
    statusIdle := fun _ => .inl rfl
    faultAddr := fun hf => absurd rfl hf }

/-- A command word issued: only what the accepted command does from a cleared, idle block is left to show. -/
theorem invariant_issue {effect : State → State}
    (heffect : s.phase = .idle → Invariant (effect (acceptClear s))) : Invariant (issue s effect) := by
  by_cases hi : s.phase = .idle
  · rw [issue_idle hi]; exact heffect hi
  · rw [issue_busy hi]; exact h

/-- A command done in its acceptance step (42 R152, R153). -/
theorem invariant_completeAtOnce (hi : s.phase = .idle) (hf : s.faultAddr = 0#32) : Invariant (completeAtOnce s) :=
  { h with
    statusBusy := fun hb => absurd hi hb
    statusIdle := fun _ => .inr (.inl rfl)
    faultAddr := fun hne => absurd hf hne }

/-- The windows of a command whose operands passed the checks opened (70 R248). -/
theorem invariant_openWindows {l : Latch} (hl : LatchLegal l) : Invariant (openWindows s l) :=
  { h with
    runUnread := fun hb => List.mem_cons_of_mem l (h.runUnread hb)
    unreadLegal := List.forall_mem_cons.mpr ⟨hl, h.unreadLegal⟩
    racedIn := fun a ha => List.any_eq_true.mpr <| by
      obtain ⟨m, hm, hin⟩ := List.any_eq_true.mp (h.racedIn a ha)
      exact ⟨m, List.mem_cons_of_mem l hm, hin⟩
    racedOut := fun a ha => List.any_eq_true.mpr <| by
      rcases mem_joinRaced.mp ha with ha | ha
      · obtain ⟨b, -, htouched⟩ := List.mem_flatMap.mp ha
        exact ⟨l, List.mem_cons_self, touchedOutputs_inWindow hl htouched⟩
      · obtain ⟨m, hm, hin⟩ := List.any_eq_true.mp (h.racedOut a ha)
        exact ⟨m, List.mem_cons_of_mem l hm, hin⟩ }

/-- A run begun at one of its units, by a cleared block whose windows it has opened (41 R130, 43 R189). -/
theorem invariant_begun {ph : Phase} {l : Latch} {q : SeqPos} (hst : s.status = statusClear)
    (hf : s.faultAddr = 0#32) (hl : LatchLegal l) (hopen : l ∈ s.unread) (hu : UnitOf ph l q) :
    Invariant { s with lat := l, phase := ph, seq := q } :=
  { h with
    statusBusy := fun _ => hst
    statusIdle := fun _ => .inl hst
    faultAddr := fun hne => absurd hf hne
    operands := fun _ => hl
    scalarSeq := fun (hph : ph = .runS) => (hph ▸ hu : UnitOf .runS l q).pixel
    vectorSeq := fun (hph : ph = .runV) => (hph ▸ hu : UnitOf .runV l q).chunk
    runUnread := fun _ => hopen }

/-- DETECT accepted or refused (60 R218). -/
theorem invariant_startDetect {ph : Phase} (hph : ph ≠ .idle) :
    Invariant (startDetect ph (firstWidth ph s.width) (acceptClear s)) := by
  have hclear := invariant_acceptClear h
  rcases startDetect_cases ph (firstWidth ph s.width) (acceptClear s) with ⟨e, -, heq⟩ | ⟨hcheck, heq⟩
  · rw [heq]; exact invariant_raiseError hclear e _
  · obtain ⟨-, hl⟩ := checkDetectOperands_eq_none.mp hcheck
    have hfirst : UnitOf ph (latched s) ⟨0, 1, 1, firstWidth ph s.width⟩ :=
      ⟨Nat.zero_lt_succ 2, le_refl 1, hl.height, firstUnit_inRow hph hl.width⟩
    rw [heq]
    exact invariant_begun (invariant_openWindows hclear hl) rfl rfl hl List.mem_cons_self hfirst

/-- Every word written to CMD (30 R94, R96). -/
theorem invariant_commandWrite {w : Word} {t : State} (ht : commandWrite s w = .next t) : Invariant t := by
  have hclear := invariant_acceptClear h
  unfold commandWrite at ht
  split at ht
  · rename_i i _
    cases i with
    | detectS => cases ht; exact invariant_issue h fun _ => invariant_startDetect h (ph := .runS) nofun
    | detectV => cases ht; exact invariant_issue h fun _ => invariant_startDetect h (ph := .runV) nofun
    | widen =>
      cases ht
      exact invariant_issue h fun hi => invariant_completeAtOnce (s := writeLaneHalves _ _) (hclear.of_view rfl) hi rfl
    | narrow =>
      cases ht
      exact invariant_issue h fun hi => invariant_completeAtOnce (s := writeLaneBytes _ _) (hclear.of_view rfl) hi rfl
  · cases ht
    exact invariant_issue h fun _ => invariant_raiseError hclear _ _

/-! ### The host's accesses -/

/-- The windows of an idle block handed over (70 R248). -/
theorem invariant_handOver (hi : s.phase = .idle) : Invariant (handOver s) where
  memCanonical := handOver_wf h.memCanonical
  memInSpace := handOver_inSpace (fun _ => h.racedOut_inSpace) h.memInSpace
  statusBusy := by simp [hi]
  statusIdle := by simpa using h.statusIdle
  faultAddr := by simpa using h.faultAddr
  operands := by simp [hi]
  scalarSeq := by simp [hi]
  vectorSeq := by simp [hi]
  runUnread := by simp [hi]
  unreadLegal := by simp
  racedIn := by simp
  racedOut := by simp

/-- A host read of STATUS (10 R25, 70 R248). -/
theorem invariant_pollStatus : Invariant (pollStatus s) := by
  by_cases hi : s.phase = .idle
  · rw [pollStatus_idle hi]; exact (invariant_handOver h hi).of_view rfl
  · rw [pollStatus_busy hi]; exact h.of_view rfl

/-- A register stored by the host (10 R27 to R33). -/
theorem invariant_writeReg (r : Reg) (v : Word) : Invariant (writeReg s r v) :=
  h.of_view (by cases r <;> rfl)

/-- A racing host write (20 R76). -/
theorem invariant_raceWrite {a : Nat} (ha : a < Config.spaceSize) (b : Byte) : Invariant (raceWrite s a b) := by
  have hout : ∀ o ∈ (raceWrite s a b).racedOut, racesOut s o = true := fun o ho =>
    (raceWrite_racedOut ho).elim id (h.racedOut o)
  unfold raceWrite at hout ⊢
  split_ifs at hout ⊢ with hin
  · refine { invariant_storeByte h ha b with racedIn := fun x hx => ?_, racedOut := hout }
    rcases mem_joinRaced.mp hx with hx | hx
    · rw [List.mem_singleton.mp hx]; exact hin
    · exact h.racedIn x hx
  · exact { h with racedOut := hout }

/-- A host write of a byte of `Mem`. -/
theorem invariant_serveMemWrite {addr : Word} {b : Byte} {t : State} (ht : serveMemWrite s addr b = .next t) :
    Invariant t := by
  dsimp only [serveMemWrite] at ht
  split at ht
  · cases ht
  · split at ht <;> cases ht
    · exact invariant_raceWrite h addr.isLt b
    · exact invariant_storeByte h addr.isLt b

/-- A host read of a byte of `Mem`. -/
theorem invariant_serveMemRead {addr : Word} {t : State} (ht : serveMemRead s addr = .next t) : Invariant t := by
  dsimp only [serveMemRead] at ht
  split at ht
  · cases ht
  · split at ht <;> cases ht <;> exact h.of_view rfl

/-- A host write to the register window. -/
theorem invariant_serveRegWrite {width : AccessWidth} {off : BitVec 8} {v : Word} {t : State}
    (ht : serveRegWrite s width off v = .next t) : Invariant t := by
  unfold serveRegWrite at ht
  split at ht
  · split at ht
    · cases ht; exact h
    · exact invariant_commandWrite h ht
    · cases ht; exact invariant_writeReg h _ v
  · cases ht

/-- A host read of the register window. -/
theorem invariant_serveRegRead {width : AccessWidth} {off : BitVec 8} {t : State}
    (ht : serveRegRead s width off = .next t) : Invariant t := by
  unfold serveRegRead at ht
  split at ht
  · split at ht <;> cases ht
    · exact h.of_view rfl
    · exact invariant_pollStatus h
    · exact h.of_view rfl
  · cases ht

/-- One poll of `wait` (30 R100). -/
theorem invariant_serveWait : Invariant (serveWait s) := by
  have hpoll := invariant_pollStatus h
  unfold serveWait
  split
  · exact invariant_blockStep (hpoll.of_view rfl)
  · exact hpoll

/-- Reset, whenever it arrives (70 R240, R244). -/
theorem invariant_serveReset (k : Nat) : Invariant (serveReset s k) :=
  invariant_resetBlock (invariant_storeBytes (s := nextDraw s) (h.of_view rfl) _)

/-- Every input served (10 R20). -/
theorem invariant_serve {i : Input} {t : State} (ht : serve s i = .next t) : Invariant t := by
  cases i with
  | regWrite width off v => exact invariant_serveRegWrite h ht
  | regRead width off => exact invariant_serveRegRead h ht
  | memWrite addr b => exact invariant_serveMemWrite (addr := addr) (b := b) h ht
  | memRead addr => exact invariant_serveMemRead (addr := addr) h ht
  | wait => cases ht; exact invariant_serveWait h
  | blockTurn => cases ht; exact invariant_blockStep h
  | reset k => cases ht; exact invariant_serveReset h k

end

/-- Settles O37: a step is the block's turn or an input served, and each operation these are made of keeps the
invariant. -/
theorem stepKeepsInvariant : Obligations.StepKeepsInvariant := by
  intro s t h ht
  cases hin : s.inputs with
  | nil =>
    rw [step_alone hin] at ht
    cases ht
    exact invariant_blockStep h
  | cons i rest =>
    rw [step_serves hin] at ht
    exact invariant_serve (s := { s with inputs := rest }) (h.of_view rfl) ht

end Sys2Proof.Machine

/-! PROOF. What a chunk leaves in the datapath registers (43 R177 to R182). -/

namespace Sys2Proof.Machine

/-! ### The lanes of a loaded chunk -/

/-- The operand registers of a computed chunk are the widened samples (43 R177). -/
theorem chunkDone_vop (s : State) : (chunkDone s).vop = widened (Win.ofFn (laneSamples s)) := by
  simp [chunkDone, widened]

/-- A lane of VR is the widened pixel function of the lane's samples (43 R180, R190). -/
theorem chunkResult_get_widened (b : Win (Oct Byte)) (j : Fin 8) :
    (chunkResult (verticalSum (widened b)) (horizontalSum (widened b))).get j = zext16 (spx (laneWindow b j)) := by
  obtain ⟨hv, hv', hh, hh'⟩ := kernelSums_bounds (laneWindow b j)
  have small {v : Int} (hlo : -1020 ≤ v) (hhi : v ≤ 1020) : 0 ≤ absInt v / 8 ∧ absInt v / 8 < 128 := by
    unfold absInt
    split_ifs <;> omega
  have := small hv hv'
  have := small hh hh'
  rw [chunkResult, ladd_u16 (lasr3_labs_u16 (verticalSum_get b j) hv hv')
    (lasr3_labs_u16 (horizontalSum_get b j) hh hh'), zext16_eq_u16, spx_eq, toNat_u8 (by omega) (by omega)]

/-- Lane `j` of the datapath registers belongs to the samples `w`: widened in VOP, their exact sums in SV and SH, the
widened pixel function in VR (43 R177 to R180, R182). -/
structure LaneHolds (t : State) (j : Fin 8) (w : Win Byte) : Prop where
  operands : ∀ x, (t.vop.get x).get j = zext16 (w.get x)
  vertical : (t.sv.get j).toInt = sumV w
  horizontal : (t.sh.get j).toInt = sumH w
  result : t.vr.get j = zext16 (spx w)

/-- Every lane of a computed chunk belongs to the samples loaded in it, active or not. -/
theorem chunkDone_laneHolds (s : State) (j : Fin 8) :
    LaneHolds (chunkDone s) j (laneWindow (Win.ofFn (laneSamples s)) j) := by
  obtain ⟨hv, hv', hh, hh'⟩ := kernelSums_bounds (laneWindow (Win.ofFn (laneSamples s)) j)
  have hsv : (chunkDone s).sv = verticalSum (chunkDone s).vop := rfl
  have hsh : (chunkDone s).sh = horizontalSum (chunkDone s).vop := rfl
  have hvr : (chunkDone s).vr = chunkResult (verticalSum (chunkDone s).vop) (horizontalSum (chunkDone s).vop) := rfl
  rw [chunkDone_vop] at hsv hsh hvr
  refine ⟨fun x => ?_, ?_, ?_, ?_⟩
  · simp [chunkDone_vop, widened, widenBytes, laneWindow]
  · rw [hsv, verticalSum_get, toInt_u16 (by omega) (by omega)]
  · rw [hsh, horizontalSum_get, toInt_u16 (by omega) (by omega)]
  · rw [hvr, chunkResult_get_widened]

/-- An inactive lane is loaded with zeros (43 R177). -/
theorem laneSamples_inactive {s : State} {j : Fin 8} (hj : s.seq.n ≤ j.val) :
    laneWindow (Win.ofFn (laneSamples s)) j = Win.ofFn fun _ => 0#8 := by
  apply Win.ext_get
  intro x
  simp [laneWindow, laneSamples, Nat.not_lt.mpr hj]

/-- A lane that belongs to zeros holds 0 throughout (43 R182). -/
theorem LaneHolds.zero {t : State} {j : Fin 8} (h : LaneHolds t j (Win.ofFn fun _ => 0#8)) :
    (∀ x, (t.vop.get x).get j = 0#16) ∧ t.sv.get j = 0#16 ∧ t.sh.get j = 0#16 ∧ t.vr.get j = 0#16 := by
  obtain ⟨hops, hv, hh, hr⟩ := h
  refine ⟨fun x => ?_, BitVec.eq_of_toInt_eq (hv.trans (by decide)), BitVec.eq_of_toInt_eq (hh.trans (by decide)),
    hr.trans (by decide)⟩
  rw [hops, Win.get_ofFn]
  rfl

/-! ### The chunk performed -/

/-- The datapath registers, which the writes of a unit and its advance leave alone (10 R39, R40). -/
def SameDatapath (s t : State) : Prop :=
  t.vop = s.vop ∧ t.sv = s.sv ∧ t.sh = s.sh ∧ t.vr = s.vr ∧ t.ssv = s.ssv ∧ t.ssh = s.ssh

/-- The advance leaves the datapath registers alone (43 R188). -/
theorem vectorAdvance_datapath (s : State) : SameDatapath s (vectorAdvance s) := by
  rcases vectorAdvance_cases s with ⟨q, ha, -⟩ | ⟨-, -, -, ha⟩
  all_goals rw [ha]; exact ⟨rfl, rfl, rfl, rfl, rfl, rfl⟩

/-- With memory behind both windows, a chunk's reads and writes succeed, and the datapath keeps what was computed
(43 R187). -/
theorem vectorUnit_datapath {s : State} (hu : UnitOf .runV s.lat s.seq) (hw : 3 ≤ s.lat.w.toNat)
    (hb : Backed s s.lat) : SameDatapath (chunkDone (nextDraw s)) (vectorUnit s) := by
  have hreads : ∀ x, ∀ j : Fin 8, j.val < (nextDraw s).seq.n →
      memOK (nextDraw s) (nbrAddr (nextDraw s) x + j.val) = true := fun x _ hj => unitReads_ok hu hw hb x hj
  have hwrites : ∀ p ∈ vectorStores (chunkDone (nextDraw s)), memOK (chunkDone (nextDraw s)) p.1 = true := by
    intro p hp
    obtain ⟨j, hj, rfl⟩ := List.mem_map.mp hp
    obtain ⟨hlo, hhi⟩ := outAddr_inWindow (hu.interior hw ((mem_activeLanes _ j).mp hj))
    exact hb.2.memOK (by exact_mod_cast hlo) (by exact_mod_cast hhi)
  have hunit : vectorUnit s = vectorAdvance (storeBytes (chunkDone (nextDraw s))
      (vectorStores (chunkDone (nextDraw s)))).1 := by
    rw [← storeThen_done hwrites vectorAdvance, vectorUnit, vectorLoad_done hreads]
  rw [hunit, storeBytes_frame]
  exact vectorAdvance_datapath _

/-- Settles O31: an undisturbed chunk's lanes belong to the neighbourhoods of its columns, and past the active lanes
to zeros. -/
theorem laneRegistersHoldChunk : Obligations.LaneRegistersHoldChunk := by
  intro s h hph hin hq hb
  have hbusy : s.phase ≠ .idle := by rw [hph]; decide
  obtain ⟨hvop, hsv, hsh, hvr, hssv, hssh⟩ :=
    vectorUnit_datapath (hph ▸ h.unitOf hbusy) (h.operands hbusy).width hb
  have lane (j : Fin 8) : LaneHolds (vectorUnit s) j (laneWindow (Win.ofFn (laneSamples (nextDraw s))) j) := by
    obtain ⟨ho, hv, hh, hr⟩ := chunkDone_laneHolds (nextDraw s) j
    exact ⟨hvop ▸ ho, hsv ▸ hv, hsh ▸ hh, hvr ▸ hr⟩
  have hstep : step s = .next (vectorUnit s) := by rw [step_alone hin, blockStep_runV hph]
  refine ⟨vectorUnit s, hstep, hssv, hssh, fun j hj => ?_, fun j hj => ?_⟩
  · have hlane := lane j
    rw [laneSamples_window (s := nextDraw s) hq hj] at hlane
    exact ⟨hlane.operands, hlane.vertical, hlane.horizontal, hlane.result⟩
  · exact (laneSamples_inactive (s := nextDraw s) hj ▸ lane j).zero

end Sys2Proof.Machine

/-! PROOF. The block's turn on its own side (10 R35, R37, R38): what it leaves unchanged, and that it does not look at
the host's registers or at the waiting operations. -/

namespace Sys2Proof.Machine

/-! ### What a turn leaves unchanged -/

/-- What no turn of the block writes: the frame of a unit, with phase, STATUS and FAULT_ADDR blanked too. -/
def turnFrame (s : State) : State :=
  { runFrame s with
    phase := .idle
    status := statusClear
    faultAddr := 0#32 }

/-- The advance after a unit keeps the frame of the turn (41 R137, 43 R188). -/
theorem turnFrame_unitAdvance (ph : Phase) (s : State) : turnFrame (unitAdvance ph s) = turnFrame s := by
  cases ph with
  | idle => rfl
  | runS => rcases scalarAdvance_cases s with ⟨q, h, -⟩ | ⟨-, -, -, h⟩ <;> rw [unitAdvance, h] <;> rfl
  | runV => rcases vectorAdvance_cases s with ⟨q, h, -⟩ | ⟨-, -, -, h⟩ <;> rw [unitAdvance, h] <;> rfl

/-- A unit's writes and its advance keep the frame of the turn. -/
theorem turnFrame_storeThen (ph : Phase) (s : State) (l : List (Int × Byte)) :
    turnFrame (storeThen s l (unitAdvance ph)) = turnFrame s := by
  rcases storeThen_cases s l (unitAdvance ph) with ⟨a, -, h⟩ | ⟨-, h⟩
  · rw [h]; rfl
  · rw [h, turnFrame_unitAdvance]; rfl

/-- A turn keeps its frame, however the unit ends (10 R38, 60 R217). -/
theorem turnFrame_blockStep (s : State) : turnFrame (blockStep s) = turnFrame s := by
  cases hph : s.phase with
  | idle => rw [blockStep_idle hph]
  | runS =>
    rw [blockStep_runS hph]
    rcases scalarUnit_cases s with ⟨a, -, h⟩ | ⟨-, h⟩
    · rw [h]; rfl
    · rw [h]; exact turnFrame_storeThen .runS _ _
  | runV =>
    rw [blockStep_runV hph]
    rcases vectorUnit_cases s with ⟨a, v, -, h⟩ | ⟨-, h⟩
    · rw [h]; rfl
    · rw [h]; exact turnFrame_storeThen .runV _ _

/-! ### What a turn does not look at -/

/-- `s` with the host's registers and waiting operations of `o`. -/
def withHostSide (s o : State) : State :=
  { s with
    bpp := o.bpp
    width := o.width
    height := o.height
    inBase := o.inBase
    outBase := o.outBase
    laneB0 := o.laneB0
    laneB1 := o.laneB1
    laneW0 := o.laneW0
    laneW1 := o.laneW1
    laneW2 := o.laneW2
    laneW3 := o.laneW3
    inputs := o.inputs }

/-- The writes of a unit do not look at the host's side. -/
theorem storeBytes_withHostSide (o : State) (l : List (Int × Byte)) : ∀ s : State,
    storeBytes (withHostSide s o) l = (withHostSide (storeBytes s l).1 o, (storeBytes s l).2) := by
  induction l with
  | nil => intro s; rfl
  | cons p rest ih =>
    intro s
    obtain ⟨a, b⟩ := p
    have hok : memOK (withHostSide s o) a = memOK s a := memOK_congr rfl a
    unfold storeBytes
    rw [hok]
    split
    · exact ih (storeByte s a.toNat b)
    · rfl

/-- The advance after a unit does not look at the host's side. -/
theorem unitAdvance_withHostSide (ph : Phase) (s o : State) :
    unitAdvance ph (withHostSide s o) = withHostSide (unitAdvance ph s) o := by
  cases ph with
  | idle => rfl
  | runS => simp only [unitAdvance, scalarAdvance, apply_ite (withHostSide · o)]; rfl
  | runV => simp only [unitAdvance, vectorAdvance, apply_ite (withHostSide · o)]; rfl

/-- A unit's writes and its advance do not look at the host's side. -/
theorem storeThen_withHostSide (ph : Phase) (s o : State) (l : List (Int × Byte)) :
    storeThen (withHostSide s o) l (unitAdvance ph) = withHostSide (storeThen s l (unitAdvance ph)) o := by
  unfold storeThen
  rw [storeBytes_withHostSide]
  rcases storeBytes s l with ⟨u, _ | a⟩
  · exact unitAdvance_withHostSide ph u o
  · rfl

/-- A scalar unit's reads do not look at the host's side. -/
theorem scalarLoad_withHostSide (s o : State) :
    scalarLoad (withHostSide s o) = (withHostSide (scalarLoad s).1 o, (scalarLoad s).2) := by
  have hreads : firstFailing (withHostSide s o) (scalarReads (withHostSide s o)) = firstFailing s (scalarReads s) :=
    firstFailing_congr rfl _
  unfold scalarLoad
  rw [hreads]
  split <;> rfl

/-- A chunk's reads do not look at the host's side. -/
theorem loadOperands_withHostSide (o : State) (l : List Nbr) : ∀ s : State,
    loadOperands (withHostSide s o) l = (withHostSide (loadOperands s l).1 o, (loadOperands s l).2) := by
  induction l with
  | nil => intro s; rfl
  | cons x rest ih =>
    intro s
    have hreads : firstFailing (withHostSide s o) (laneReads (withHostSide s o) x) = firstFailing s (laneReads s x) :=
      firstFailing_congr rfl _
    unfold loadOperands
    rw [hreads]
    split
    · rfl
    · exact ih (setVop s (s.vop.set x (widenBytes (laneSamples s x))))

/-- A chunk up to its writes does not look at the host's side. -/
theorem vectorLoad_withHostSide (s o : State) :
    vectorLoad (withHostSide s o) = (withHostSide (vectorLoad s).1 o, (vectorLoad s).2) := by
  unfold vectorLoad
  rw [loadOperands_withHostSide]
  rcases loadOperands s allNbrs with ⟨u, _ | a⟩ <;> rfl

/-- The draw of a unit does not look at the host's side. -/
theorem nextDraw_withHostSide (s o : State) : nextDraw (withHostSide s o) = withHostSide (nextDraw s) o := rfl

/-- A scalar unit does not look at the host's side. -/
theorem scalarUnit_withHostSide (s o : State) : scalarUnit (withHostSide s o) = withHostSide (scalarUnit s) o := by
  unfold scalarUnit
  rw [nextDraw_withHostSide, scalarLoad_withHostSide]
  rcases scalarLoad (nextDraw s) with ⟨u, _ | a⟩
  · exact storeThen_withHostSide .runS u o (scalarStores u)
  · rfl

/-- A vector unit does not look at the host's side. -/
theorem vectorUnit_withHostSide (s o : State) : vectorUnit (withHostSide s o) = withHostSide (vectorUnit s) o := by
  unfold vectorUnit
  rw [nextDraw_withHostSide, vectorLoad_withHostSide]
  rcases vectorLoad (nextDraw s) with ⟨u, _ | a⟩
  · exact storeThen_withHostSide .runV u o (vectorStores u)
  · rfl

/-- A turn commutes with every change of the host's registers and of the waiting operations (10 R35, 70 R249). -/
theorem blockStep_withHostSide (s o : State) : blockStep (withHostSide s o) = withHostSide (blockStep s) o := by
  cases hph : s.phase with
  | idle => rw [blockStep_idle hph, blockStep_idle (s := withHostSide s o) hph]
  | runS => rw [blockStep_runS hph, blockStep_runS (s := withHostSide s o) hph, scalarUnit_withHostSide]
  | runV => rw [blockStep_runV hph, blockStep_runV (s := withHostSide s o) hph, vectorUnit_withHostSide]

/-- Only the waiting operations exchanged, the turn is the same. -/
theorem blockStep_inputs (s : State) (l : List Input) :
    blockStep { s with inputs := l } = { blockStep s with inputs := l } := by
  have hown : blockStep s = withHostSide (blockStep s) s := blockStep_withHostSide s s
  have hturn := blockStep_withHostSide s { s with inputs := l }
  exact hturn.trans (by rw [hown]; rfl)

/-- Settles O39: a turn keeps its frame, and commutes with the waiting operations put behind it. -/
theorem blockTurnFrame : Obligations.BlockTurnFrame := by
  refine ⟨fun s hin => ?_, fun s rest hin => ⟨step_serves hin, ?_⟩⟩
  · have h := turnFrame_blockStep s
    have hframe : runFrame (turnFrame (blockStep s)) = runFrame (turnFrame s) := congrArg runFrame h
    obtain ⟨-, hlat, hmap, hinputs, hracedIn, hracedOut⟩ := fields_of_frame hframe
    exact ⟨_, step_alone hin, rfl, (sameRegisters_of_frame hframe :), hlat, hmap, hinputs.trans hin,
      (congrArg State.busData h :), (congrArg State.unread h :), hracedIn, hracedOut⟩
  · rw [blockStep_inputs s rest, blockStep_inputs s []]

end Sys2Proof.Machine

/-! PROOF. The register file (10 R23 to R36): where a register lies, what it reads, and what a host access to the window
does. -/

namespace Sys2Proof.Machine

/-! ### Offsets and addresses (10 R23, R34) -/

/-- Different registers have different offsets (10 R23). -/
theorem regOffset_injective {r r' : Reg} (h : regOffset r = regOffset r') : r = r' := by
  have hsel : some r = some r' := by rw [← regAt_regOffset r, h, regAt_regOffset]
  exact Option.some.inj hsel

/-- Every offset of the map lies below 0x38 (10 R23). -/
theorem regOffset_toNat_lt (r : Reg) : (regOffset r).toNat < 0x38 := by
  cases r <;> decide

/-- From 0x38 on the window is unmapped (10 R34). -/
theorem regAt_unmapped {off : BitVec 8} (h : 0x38 ≤ off.toNat) : regAt off = none := by
  refine List.find?_eq_none.mpr fun r _ heq => ?_
  have := regOffset_toNat_lt r
  rw [beq_iff_eq.mp heq] at this
  omega

/-- An aligned 32-bit access is allowed (20 R62). -/
theorem accessAllowed_aligned {off : BitVec 8} (h : off.toNat % 4 = 0) : accessAllowed .b32 off = true := by
  simp [accessAllowed, h]

/-- Settles O50: the offset in an address is the address less REG_BASE, and offsets differ. -/
theorem registerAddressesDistinct : Obligations.RegisterAddressesDistinct := by
  intro r r' h
  have hoff : (regOffset r).zeroExtend 32 = (regOffset r').zeroExtend 32 := (BitVec.add_right_inj _).mp h
  have hsame := congrArg (BitVec.setWidth 8) hoff
  simp only [BitVec.zeroExtend, BitVec.setWidth_setWidth_of_le _ (show 8 ≤ 32 by omega), BitVec.setWidth_eq] at hsame
  exact regOffset_injective hsame

/-! ### Accesses to the window (10 R24, R34, 20 R62) -/

/-- A write to CMD is a command word (10 R24). -/
theorem serveRegWrite_cmd (s : State) (w : Word) : serveRegWrite s .b32 (regOffset .cmd) w = commandWrite s w := by
  unfold serveRegWrite
  rw [accessAllowed_regOffset, if_pos rfl, regAt_regOffset]

/-- A write to any other register stores (10 R25 to R33). -/
theorem serveRegWrite_reg {r : Reg} (hr : r ≠ .cmd) (s : State) (v : Word) :
    serveRegWrite s .b32 (regOffset r) v = .next (writeReg s r v) := by
  unfold serveRegWrite
  rw [accessAllowed_regOffset, if_pos rfl, regAt_regOffset]
  cases r with
  | cmd => exact absurd rfl hr
  | _ => rfl

/-- A write to an unmapped offset is ignored (10 R34). -/
theorem serveRegWrite_unmapped {off : BitVec 8} (h : 0x38 ≤ off.toNat) (h4 : off.toNat % 4 = 0) (s : State)
    (v : Word) : serveRegWrite s .b32 off v = .next s := by
  unfold serveRegWrite
  rw [accessAllowed_aligned h4, if_pos rfl, regAt_unmapped h]

/-- A read of any register but STATUS returns it and changes nothing (10 R23). -/
theorem serveRegRead_reg {r : Reg} (hr : r ≠ .status) (s : State) :
    serveRegRead s .b32 (regOffset r) = .next { s with busData := readReg s r } := by
  unfold serveRegRead
  rw [accessAllowed_regOffset, if_pos rfl, regAt_regOffset]
  cases r with
  | status => exact absurd rfl hr
  | _ => rfl

/-- A read of an unmapped offset returns 0 (10 R34). -/
theorem serveRegRead_unmapped {off : BitVec 8} (h : 0x38 ≤ off.toNat) (h4 : off.toNat % 4 = 0) (s : State) :
    serveRegRead s .b32 off = .next { s with busData := 0#32 } := by
  unfold serveRegRead
  rw [accessAllowed_aligned h4, if_pos rfl, regAt_unmapped h]

/-- Settles O47: each offset named is unmapped, or a register's whose rule says it. -/
theorem readOnlyAndUnmapped : Obligations.ReadOnlyAndUnmapped := by
  intro s rest
  refine ⟨fun off v hoff hin => ?_, fun off hoff hin => ?_, fun hin => ?_⟩ <;> rw [step_serves hin, serve]
  · rcases hoff with rfl | rfl | ⟨hlo, h4⟩
    · exact serveRegWrite_reg (r := .status) (by decide) _ v
    · exact serveRegWrite_reg (r := .faultAddr) (by decide) _ v
    · exact serveRegWrite_unmapped hlo h4 _ v
  · rcases hoff with rfl | ⟨hlo, h4⟩
    · exact serveRegRead_reg (r := .cmd) (by decide) _
    · exact serveRegRead_unmapped hlo h4 _
  · exact serveRegRead_reg (r := .faultAddr) (by decide) _

/-- A word decodes to a command when its number in the table does (30 R101). -/
theorem decode_tableWord {w : Nat} {i : Instr} (h : decodeTableWord 32 w = some i) :
    decode (tableWord 32 w) = .command i := by
  rw [decodeTableWord, if_pos (le_refl 32)] at h
  cases hd : decode (tableWord 32 w) with
  | command j => rw [hd] at h; exact congrArg Decoded.command (Option.some.inj h)
  | illegal e => rw [hd] at h; cases h

/-- A legal word written to CMD is executed (30 R94). -/
theorem commandWrite_command {w : Word} {i : Instr} (h : decode w = .command i) (s : State) :
    commandWrite s w = exec i s := by
  rw [commandWrite, h]

/-- Settles O6: the step is the CMD write, and the CMD write of a legal word is `exec`. -/
theorem stepRunsDecodedCommand : Obligations.StepRunsDecodedCommand := by
  refine ⟨fun s w rest i hin hd => ?_, fun s w i hd => ?_⟩
  · rw [step_serves hin]
    exact (serveRegWrite_cmd _ w).trans (commandWrite_command hd _)
  · rw [step_withFetchWord, commandWrite_command (decode_tableWord hd)]

/-! ### What a register reads (10 R27 to R33) -/

/-- A write to a read-write register is read there, and nowhere else. -/
theorem readReg_writeReg {r : Reg} (hc : r ≠ .cmd) (hs : r ≠ .status) (hf : r ≠ .faultAddr) (s : State) (v : Word)
    (r' : Reg) : readReg (writeReg s r v) r' = if r' = r then v else readReg s r' := by
  cases r with
  | cmd => exact absurd rfl hc
  | status => exact absurd rfl hs
  | faultAddr => exact absurd rfl hf
  | _ => cases r' <;> rfl

/-- A write to a register leaves the phase, memory and the waiting operations alone. -/
theorem writeReg_frame (s : State) (r : Reg) (v : Word) :
    (writeReg s r v).phase = s.phase ∧ (writeReg s r v).mem = s.mem ∧ (writeReg s r v).inputs = s.inputs := by
  cases r <;> exact ⟨rfl, rfl, rfl⟩

/-- What a register reads does not depend on what the host read before, or waits to do. -/
theorem readReg_outside (s : State) (l : List Input) (w : Word) (r : Reg) :
    readReg { s with inputs := l, busData := w } r = readReg s r := by
  cases r <;> rfl

/-- Settles O46: the write stores, the read behind it returns what is stored, and the rest is as before. -/
theorem registerReadsBack : Obligations.RegisterReadsBack := by
  intro s r v rest hc hs hf hin
  obtain ⟨hphase, hmem, hinputs⟩ := writeReg_frame { s with inputs := .regRead .b32 (regOffset r) :: rest } r v
  have hreads := readReg_writeReg hc hs hf { s with inputs := .regRead .b32 (regOffset r) :: rest } v
  have hwrite := (step_serves hin).trans (serveRegWrite_reg hc _ v)
  have hread := (step_serves hinputs).trans (serveRegRead_reg hs _)
  refine ⟨_, (run_succ hwrite 1).trans (run_succ hread 0), ?_, rfl, hmem, hphase, fun r' hne => ?_⟩
  · exact (readReg_outside _ rest _ r).trans ((hreads r).trans (if_pos rfl))
  · exact (readReg_outside _ rest _ r').trans ((hreads r').trans ((if_neg hne).trans
      (readReg_outside s _ s.busData r')))

/-! ### STATUS (10 R25, R36) -/

/-- The lowest bit of STATUS is BUSY (10 R25). -/
theorem statusWord_getLsbD_zero (s : State) : (statusWord s).getLsbD 0 = busy s := by
  simp only [statusWord, BitVec.getLsbD_append]
  simp

/-- STATUS while a command runs reads 0x00000001 (10 R25). -/
theorem Invariant.statusWord_busy {s : State} (h : Invariant s) (hb : s.phase ≠ .idle) :
    statusWord s = 0x00000001#32 := by
  rw [statusWord, busy_iff.mpr hb, h.statusBusy hb]
  decide

/-- Settles O38: busy, STATUS is 1; idle, it is one of the stored ends of a command. -/
theorem statusReadsLegal : Obligations.StatusReadsLegal := by
  refine ⟨fun s h => ?_, fun s => ?_⟩
  · by_cases hi : s.phase = .idle
    · rw [statusWord, not_busy_iff.mpr hi]
      rcases h.statusIdle hi with hst | hst | ⟨e, hst⟩ <;> rw [hst]
      · decide
      · decide
      · cases e <;> decide
    · rw [h.statusWord_busy hi]
      decide
  · rw [statusWord_getLsbD_zero, busy_iff]
    cases s.phase <;> decide

end Sys2Proof.Machine

/-! PROOF. The runs of DETECT.S and DETECT.V as a host sees them (70 R252, R254): STATUS busy to the last unit, then the
whole result. -/

namespace Sys2Proof.Machine

/-- While the run of a ready state's command goes on, STATUS reads busy (10 R25). -/
theorem RunningAt.statusWord_busy {ph : Phase} {s t : State} {k : Nat} (hph : ph ≠ .idle) (h : RunningAt ph s k t) :
    statusWord t = 0x00000001#32 := by
  have hphase : t.phase = ph := (congrArg State.phase h.frame :)
  have hstatus : t.status = statusClear := (congrArg State.status h.frame :)
  rw [statusWord, busy_iff.mpr (hphase ▸ hph), hstatus]
  decide

/-- After the CMD write of a DETECT command and fewer steps than the run has units, STATUS reads busy (70 R252). -/
theorem detect_busy {ph : Phase} {s : State} (hr : Ready s) (hph : ph ≠ .idle) {word : Nat}
    (hcmd : step (s.withFetchWord 32 word) = .next (issue s (startDetect ph (firstWidth ph s.width)))) {k : Nat}
    (hk : 1 ≤ k) (hk' : k < 1 + unitCount ph (latched s)) :
    ∃ t : State, Sys2Proof.core.run k (s.withFetchWord 32 word) = .next t ∧ statusWord t = 0x00000001#32 := by
  obtain ⟨i, rfl⟩ := Nat.exists_eq_add_of_le' hk
  have running {j : Nat} (hj : j ≤ i) : RunningAt ph s j (blockStep^[j] (accepted ph s)) :=
    runningAt_iterate hr hph (by omega)
  refine ⟨_, ?_, (running (le_refl i)).statusWord_busy hph⟩
  rw [run_succ (issue_startDetect (ph := ph) hr ▸ hcmd)]
  refine run_alone fun j hj => ?_
  obtain ⟨-, -, hinputs, -⟩ := (running hj.le).undisturbed hr
  exact hinputs

/-- The units of a scalar run, one for each interior pixel (70 R252). -/
theorem unitCount_runS (s : State) :
    unitCount .runS (latched s) = 3 * (s.width.toNat - 2) * (s.height.toNat - 2) := by
  simp only [unitCount, rowLength, stride, latched, Nat.sub_self, Nat.add_zero, Nat.div_one]
  ring

/-- Settles O43: a ready DETECT.S completes with the result of 20 R82, and STATUS reads busy until its last unit. -/
theorem scalarRunCompletes : Obligations.ScalarRunCompletes := by
  intro s hr
  obtain ⟨t, hrun, ht, -⟩ := detectS_completes hr
  refine ⟨⟨t, hrun, ht⟩, ?_⟩
  rw [← unitCount_runS s]
  exact fun k hk hk' => detect_busy hr (ph := .runS) nofun (step_withFetchWord s 32 _) hk hk'

/-- Settles O44: a ready DETECT.V completes with the result of 20 R82, and STATUS reads busy until its last unit. -/
theorem vectorRunCompletes : Obligations.VectorRunCompletes := by
  intro s hr
  obtain ⟨t, hrun, ht, -⟩ := detectV_completes hr
  exact ⟨⟨t, hrun, ht⟩, fun k hk hk' =>
    detect_busy hr (ph := .runV) nofun (step_withFetchWord s 32 _) hk hk'⟩

end Sys2Proof.Machine

/-! PROOF. Memory and the block's turn: which bytes a turn can change (20 R71, 43 R191), and which it depends on
(40 R110, 43 R192). -/

namespace Sys2Proof.Machine

/-! ### The bytes a turn can change -/

/-- The advance after a unit leaves memory alone (41 R137, 43 R188). -/
theorem unitAdvance_mem (ph : Phase) (s : State) : (unitAdvance ph s).mem = s.mem := by
  cases ph with
  | idle => rfl
  | runS => rcases scalarAdvance_cases s with ⟨q, h, -⟩ | ⟨-, -, -, h⟩ <;> rw [unitAdvance, h] <;> rfl
  | runV => rcases vectorAdvance_cases s with ⟨q, h, -⟩ | ⟨-, -, -, h⟩ <;> rw [unitAdvance, h] <;> rfl

/-- A unit's writes, however they end, and its advance change no byte but those addressed (60 R220). -/
theorem storeThen_read_other (ph : Phase) {s : State} (l : List (Int × Byte)) (hc : Memory.wf s.mem = true) {a : Nat}
    (ha : ∀ p ∈ l, p.1.toNat ≠ a) :
    Memory.read (storeThen s l (unitAdvance ph)).mem a = Memory.read s.mem a := by
  have hmem : (storeThen s l (unitAdvance ph)).mem = (storeBytes s l).1.mem := by
    rcases storeThen_cases s l (unitAdvance ph) with ⟨b, -, h⟩ | ⟨-, h⟩
    · rw [h]; rfl
    · rw [h, unitAdvance_mem]; rfl
  rw [hmem, storeBytes_read_other l hc a ha]

/-- A turn changes no byte but the output bytes of the active lanes (41 R136, 43 R181). -/
theorem blockStep_read_other {s : State} (h : Invariant s) {a : Nat}
    (ha : s.phase ≠ .idle → ∀ j, j < s.seq.n → a ≠ outByte s.lat s.seq.p s.seq.r (s.seq.c + j)) :
    Memory.read (blockStep s).mem a = Memory.read s.mem a := by
  have hc := h.memCanonical
  cases hph : s.phase with
  | idle => rw [blockStep_idle hph]
  | runS =>
    obtain ⟨-, hn⟩ := h.scalarSeq hph
    have hout : a ≠ outByte s.lat s.seq.p s.seq.r s.seq.c := ha (by rw [hph]; decide) 0 (by omega)
    rw [blockStep_runS hph]
    rcases scalarUnit_cases s with ⟨b, -, heq⟩ | ⟨-, heq⟩
    · rw [heq]; rfl
    · rw [heq]
      exact storeThen_read_other .runS (s := accumulate (nextDraw s) _) _ hc fun p hp =>
        List.mem_singleton.mp hp ▸ hout.symm
  | runV =>
    rw [blockStep_runV hph]
    rcases vectorUnit_cases s with ⟨b, v, -, heq⟩ | ⟨-, heq⟩
    · rw [heq]; rfl
    · rw [heq]
      refine storeThen_read_other .runV (s := chunkDone (nextDraw s)) _ hc fun p hp => ?_
      obtain ⟨j, hj, rfl⟩ := List.mem_map.mp hp
      exact (ha (by rw [hph]; decide) j ((mem_activeLanes _ j).mp hj)).symm

/-- Settles O40: a byte that changes is the output byte of an active lane, and active lanes are interior pixels. -/
theorem onlyInteriorBytesChange : Obligations.OnlyInteriorBytesChange := by
  intro s t h hin ht a hne
  rw [step_alone hin] at ht
  cases ht
  by_contra hout
  refine hne (blockStep_read_other h fun hb j hj heq => hout ⟨hb, _, _, _, ?_, heq⟩)
  exact (h.unitOf hb).interior (h.operands hb).width hj

/-! ### Two states that differ in memory -/

/-- `t'` is `t` but for memory, and in memory each byte is the same in both, or is in each what it was, in `m` and in
`m'`. -/
structure MemoryApart (m m' : Memory) (t t' : State) : Prop where
  rest : t' = setMem t t'.mem
  canonical : Memory.wf t.mem = true
  canonical' : Memory.wf t'.mem = true
  bytes : ∀ a, Memory.read t.mem a = Memory.read t'.mem a ∨
    Memory.read t.mem a = Memory.read m a ∧ Memory.read t'.mem a = Memory.read m' a

/-- A state and the same state with other memory, before either is written. -/
theorem memoryApart_setMem {s : State} {m : Memory} (hc : Memory.wf s.mem = true) (hm : Memory.wf m = true) :
    MemoryApart s.mem m s (setMem s m) :=
  ⟨rfl, hc, hm, fun _ => .inr ⟨rfl, rfl⟩⟩

section
variable {m m' : Memory} {t t' : State} (h : MemoryApart m m' t t')
include h

/-- What neither reads nor writes memory keeps two states apart as they were. -/
theorem MemoryApart.map {f : State → State} (hf : ∀ s n, f (setMem s n) = setMem (f s) n) :
    MemoryApart m m' (f t) (f t') := by
  obtain ⟨hrest, hc, hc', hbytes⟩ := h
  have hmem (s : State) : (f s).mem = s.mem := (congrArg State.mem (hf s s.mem) :)
  refine ⟨?_, ?_, ?_, ?_⟩ <;> simp only [hmem]
  · rw [← hf, ← hrest]
  · exact hc
  · exact hc'
  · exact hbytes

/-- A byte stored in both is the same in both, and no other byte changes. -/
theorem storeByte_memoryApart (a : Nat) (b : Byte) :
    MemoryApart m m' (storeByte t a b) (storeByte t' a b) := by
  obtain ⟨hrest, hc, hc', hbytes⟩ := h
  refine ⟨?_, write_wf hc a b, write_wf hc' a b, fun x => ?_⟩
  · rw [hrest]; rfl
  · simp only [storeByte_mem, read_write hc, read_write hc']
    split_ifs
    · exact .inl rfl
    · exact hbytes x

/-- Memory responds at the same addresses in both. -/
theorem MemoryApart.memOK_eq (a : Int) : memOK t' a = memOK t a :=
  memOK_congr (h.rest ▸ rfl) a

end

/-- The same writes end at the same one in both. -/
theorem storeBytes_memoryApart {m m' : Memory} (l : List (Int × Byte)) : ∀ {t t' : State}, MemoryApart m m' t t' →
    MemoryApart m m' (storeBytes t l).1 (storeBytes t' l).1 ∧ (storeBytes t' l).2 = (storeBytes t l).2 := by
  induction l with
  | nil => intro t t' h; exact ⟨h, rfl⟩
  | cons p rest ih =>
    intro t t' h
    obtain ⟨a, b⟩ := p
    unfold storeBytes
    rw [h.memOK_eq]
    split
    · exact ih (storeByte_memoryApart h a.toNat b)
    · exact ⟨h, rfl⟩

/-- The advance does not look at memory (41 R137, 43 R188). -/
theorem unitAdvance_setMem (ph : Phase) (s : State) (n : Memory) :
    unitAdvance ph (setMem s n) = setMem (unitAdvance ph s) n := by
  cases ph with
  | idle => rfl
  | runS => simp only [unitAdvance, scalarAdvance, apply_ite (setMem · n)]; rfl
  | runV => simp only [unitAdvance, vectorAdvance, apply_ite (setMem · n)]; rfl

/-- The same writes and the advance keep two states apart only in memory, however the writes end. -/
theorem storeThen_memoryApart {m m' : Memory} {t t' : State} (h : MemoryApart m m' t t') (ph : Phase)
    (l : List (Int × Byte)) :
    MemoryApart m m' (storeThen t l (unitAdvance ph)) (storeThen t' l (unitAdvance ph)) := by
  obtain ⟨hstored, hend⟩ := storeBytes_memoryApart l h
  unfold storeThen
  rw [show storeBytes t' l = ((storeBytes t' l).1, (storeBytes t l).2) from Prod.ext rfl hend]
  generalize storeBytes t l = ended at hstored ⊢
  obtain ⟨u, _ | a⟩ := ended
  · exact hstored.map (unitAdvance_setMem ph)
  · exact hstored.map (f := (busFailure · a)) fun _ _ => rfl

/-! ### The bytes a turn depends on -/

/-- The samples of an interior pixel's neighbourhood lie in the pixel's own plane of the input window (40 R110). -/
theorem neighbour_inPlane {l : Latch} {p r c : Nat} (hi : Interior l p r c) (x : Nbr) :
    l.inBase.toNat + p * (l.w.toNat * l.h.toNat) ≤ (inAddr l p (r + rowOffset x) (c + colOffset x)).toNat ∧
      (inAddr l p (r + rowOffset x) (c + colOffset x)).toNat <
        l.inBase.toNat + (p + 1) * (l.w.toNat * l.h.toNat) := by
  obtain ⟨hp, hr, hr', hc, hc'⟩ := hi
  have ho := offsets_small x
  obtain ⟨i, hrow⟩ := Int.eq_ofNat_of_zero_le (show 0 ≤ r + rowOffset x by omega)
  obtain ⟨j, hcol⟩ := Int.eq_ofNat_of_zero_le (show 0 ≤ c + colOffset x by omega)
  obtain ⟨hplane, -, -⟩ := sampleIndex (p := p) (show i < l.h.toNat by omega) (show j < l.w.toNat by omega)
  have hpos : 0 < l.w.toNat * l.h.toNat := Nat.mul_pos (by omega) (by omega)
  obtain ⟨hlo, hhi⟩ := (Nat.div_eq_iff hpos).mp hplane
  have haddr : inAddr l p (i : Nat) (j : Nat) =
      ((l.inBase.toNat + (p * (l.w.toNat * l.h.toNat) + (i * l.w.toNat + j)) : Nat) : Int) := by
    simp only [inAddr, sampleAddr]
    push_cast
    ring
  rw [hrow, hcol]
  simp only [haddr, Int.toNat_natCast, Nat.succ_mul]
  omega

/-- Where a unit reads does not depend on memory. -/
@[simp] theorem nbrAddr_setMem (s : State) (m : Memory) (x : Nbr) : nbrAddr (setMem s m) x = nbrAddr s x := rfl

section
variable {ph : Phase} {s : State} {m : Memory} (hu : UnitOf ph s.lat s.seq) (hw : 3 ≤ s.lat.w.toNat)
  (hm : PlaneAgrees s.lat s.seq.p s.mem m)
include hu hw hm

/-- With other memory that agrees on the current plane, an active lane reads the same sample, raced or not (43 R192). -/
theorem blockRead_setMem (k : Nat) (x : Nbr) {j : Nat} (hj : j < s.seq.n) :
    blockRead (setMem s m) k (nbrAddr s x + j) = blockRead s k (nbrAddr s x + j) := by
  obtain ⟨hlo, hhi⟩ := neighbour_inPlane (hu.interior hw hj) x
  rw [← nbrAddr_add] at hlo hhi
  simp only [blockRead, setMem_mem, hm _ hlo hhi]
  rfl

/-- So a scalar unit loads the same nine samples. -/
theorem scalarSamples_setMem (hn : s.seq.n = 1) : scalarSamples (setMem s m) = scalarSamples s := by
  refine Win.ext_get fun x => ?_
  have hsame := blockRead_setMem hu hw hm (nbrIndex x) x (j := 0) (by omega)
  simpa [scalarSamples] using hsame

/-- So a chunk loads the same samples in every lane. -/
theorem laneSamples_setMem (x : Nbr) : laneSamples (setMem s m) x = laneSamples s x := by
  refine Oct.ext_get fun j => ?_
  by_cases hj : j.val < s.seq.n
  · simp [laneSamples, hj, blockRead_setMem hu hw hm _ x hj]
  · simp [laneSamples, hj]

end

/-- A scalar unit's reads with other memory that gives the same samples. -/
theorem scalarLoad_setMem {s : State} {m : Memory} (h : scalarSamples (setMem s m) = scalarSamples s) :
    scalarLoad (setMem s m) = (setMem (scalarLoad s).1 m, (scalarLoad s).2) := by
  have hreads : firstFailing (setMem s m) (scalarReads (setMem s m)) = firstFailing s (scalarReads s) :=
    firstFailing_congr rfl _
  unfold scalarLoad
  rw [hreads, h]
  split <;> rfl

/-- A chunk's reads with other memory that gives the same samples. -/
theorem loadOperands_setMem {m : Memory} (l : List Nbr) : ∀ {s : State},
    (∀ x, laneSamples (setMem s m) x = laneSamples s x) →
    loadOperands (setMem s m) l = (setMem (loadOperands s l).1 m, (loadOperands s l).2) := by
  induction l with
  | nil => intro s _; rfl
  | cons x rest ih =>
    intro s h
    have hreads : firstFailing (setMem s m) (laneReads (setMem s m) x) = firstFailing s (laneReads s x) :=
      firstFailing_congr rfl _
    unfold loadOperands
    rw [hreads, h x]
    split
    · rfl
    · exact ih (s := setVop s (s.vop.set x (widenBytes (laneSamples s x)))) h

/-- A chunk up to its writes with other memory that gives the same samples. -/
theorem vectorLoad_setMem {s : State} {m : Memory} (h : ∀ x, laneSamples (setMem s m) x = laneSamples s x) :
    vectorLoad (setMem s m) = (setMem (vectorLoad s).1 m, (vectorLoad s).2) := by
  unfold vectorLoad
  rw [loadOperands_setMem allNbrs h]
  rcases loadOperands s allNbrs with ⟨u, _ | a⟩ <;> rfl

/-- A scalar unit's reads leave memory alone. -/
theorem scalarLoad_mem (s : State) : (scalarLoad s).1.mem = s.mem := by
  rcases scalarLoad_cases s with ⟨a, -, h⟩ | ⟨-, h⟩ <;> simp [h]

/-- A chunk's reads leave memory alone. -/
theorem vectorLoad_mem (s : State) : (vectorLoad s).1.mem = s.mem := by
  rcases vectorLoad_cases s with ⟨a, v, -, h⟩ | ⟨-, h⟩ <;> rw [h] <;> rfl

/-- The rest of a unit of either detector after its reads, which led to `loaded`: the failing read ends the command, or
the writes and the advance follow (41 R136, 43 R187). -/
def unitAfter (ph : Phase) (stores : State → List (Int × Byte)) (loaded : State × Option Int) : State :=
  match loaded with
  | (u, some a) => busFailure u a
  | (u, none) => storeThen u (stores u) (unitAdvance ph)

/-- A scalar unit is its reads and the rest. -/
theorem scalarUnit_eq_unitAfter (s : State) :
    scalarUnit s = unitAfter .runS scalarStores (scalarLoad (nextDraw s)) := rfl

/-- A vector unit is its reads and the rest. -/
theorem vectorUnit_eq_unitAfter (s : State) :
    vectorUnit s = unitAfter .runV vectorStores (vectorLoad (nextDraw s)) := rfl

/-- Loaded alike, with writes that do not depend on memory, two units keep their states apart only in memory. -/
theorem unitAfter_memoryApart (ph : Phase) {stores : State → List (Int × Byte)} {loaded : State × Option Int}
    {m₀ m : Memory} (hmem : loaded.1.mem = m₀) (hc : Memory.wf m₀ = true) (hm : Memory.wf m = true)
    (hstores : ∀ u, stores (setMem u m) = stores u) :
    MemoryApart m₀ m (unitAfter ph stores loaded) (unitAfter ph stores (setMem loaded.1 m, loaded.2)) := by
  subst hmem
  obtain ⟨u, _ | a⟩ := loaded
  all_goals have hloaded : MemoryApart u.mem m u (setMem u m) := memoryApart_setMem hc hm
  · simp only [unitAfter, hstores]
    exact storeThen_memoryApart hloaded ph (stores u)
  · exact hloaded.map (f := (busFailure · a)) fun _ _ => rfl

/-- A turn depends on no byte outside the current plane of the input window (40 R110, 43 R192). -/
theorem blockStep_memoryApart {s : State} {m : Memory} (h : Invariant s) (hc : Memory.wf m = true)
    (hm : PlaneAgrees s.lat s.seq.p s.mem m) : MemoryApart s.mem m (blockStep s) (blockStep (setMem s m)) := by
  have hdraw : nextDraw (setMem s m) = setMem (nextDraw s) m := rfl
  cases hph : s.phase with
  | idle =>
    rw [blockStep_idle hph, blockStep_idle (s := setMem s m) hph]
    exact memoryApart_setMem h.memCanonical hc
  | runS =>
    have hb : s.phase ≠ .idle := by rw [hph]; decide
    have hsamples : scalarSamples (setMem (nextDraw s) m) = scalarSamples (nextDraw s) :=
      scalarSamples_setMem (h.unitOf hb) (h.operands hb).width hm (h.scalarSeq hph).2
    rw [blockStep_runS hph, blockStep_runS (s := setMem s m) hph, scalarUnit_eq_unitAfter, scalarUnit_eq_unitAfter,
      hdraw, scalarLoad_setMem hsamples]
    exact unitAfter_memoryApart .runS (scalarLoad_mem _) h.memCanonical hc fun _ => rfl
  | runV =>
    have hb : s.phase ≠ .idle := by rw [hph]; decide
    have hsamples : ∀ x, laneSamples (setMem (nextDraw s) m) x = laneSamples (nextDraw s) x :=
      laneSamples_setMem (s := nextDraw s) (h.unitOf hb) (h.operands hb).width hm
    rw [blockStep_runV hph, blockStep_runV (s := setMem s m) hph, vectorUnit_eq_unitAfter, vectorUnit_eq_unitAfter,
      hdraw, vectorLoad_setMem hsamples]
    exact unitAfter_memoryApart .runV (vectorLoad_mem _) h.memCanonical hc fun _ => rfl

/-- Settles O41: the turn of both states loads the same samples, and then makes the same writes. -/
theorem otherPlanesDoNotMatter : Obligations.OtherPlanesDoNotMatter := by
  intro s t t' m h hc hin hm ht ht'
  rw [step_alone hin] at ht
  rw [step_alone (s := { s with mem := m }) hin] at ht'
  cases ht
  cases ht'
  obtain ⟨hrest, -, -, hbytes⟩ := blockStep_memoryApart h hc hm
  exact ⟨hrest, hbytes⟩

/-! ### The host's accesses to memory (20 R69, 70 R248) -/

/-- A host write of a byte that no window not handed over holds stores it. -/
theorem step_memWrite_plain {s : State} {addr : Word} {b : Byte} {rest : List Input}
    (hinputs : s.inputs = .memWrite addr b :: rest) (hok : memOK s (addr.toNat : Int) = true)
    (hin : racesIn s addr.toNat = false) (hout : racesOut s addr.toNat = false) :
    step s = .next (storeByte { s with inputs := rest } addr.toNat b) := by
  have hok' : memOK { s with inputs := rest } (addr.toNat : Int) = true := (memOK_congr rfl _).trans hok
  have hin' : racesIn { s with inputs := rest } addr.toNat = false := hin
  have hout' : racesOut { s with inputs := rest } addr.toNat = false := hout
  rw [step_serves hinputs]
  simp [serve, serveMemWrite, hok', hin', hout']

/-- A host read of a byte that no output window not handed over holds returns it. -/
theorem step_memRead_plain {s : State} {addr : Word} {rest : List Input} (hinputs : s.inputs = .memRead addr :: rest)
    (hok : memOK s (addr.toNat : Int) = true) (hout : racesOut s addr.toNat = false) :
    step s = .next { s with inputs := rest, busData := (Memory.read s.mem addr.toNat).zeroExtend 32 } := by
  have hok' : memOK { s with inputs := rest } (addr.toNat : Int) = true := (memOK_congr rfl _).trans hok
  have hout' : racesOut { s with inputs := rest } addr.toNat = false := hout
  rw [step_serves hinputs]
  simp [serve, serveMemRead, hok', hout']

/-- Settles O52: a read after a write, for memory itself and for the host's accesses outside the windows that race. -/
theorem memoryIsPlainRam : Obligations.MemoryIsPlainRam := by
  refine ⟨fun m a x b hc => ⟨read_write hc a b x, write_wf hc a b⟩, ?_⟩
  intro s addr b rest hc hin hout hok hinputs
  have hread := step_memRead_plain (s := storeByte { s with inputs := .memRead addr :: rest } addr.toNat b) rfl
    ((memOK_congr (s := s) rfl _).trans hok) hout
  refine ⟨_, (run_succ (step_memWrite_plain hinputs hok hin hout) 1).trans (run_succ hread 0), ?_, fun x hx => ?_⟩
  · simp [read_write hc]
  · simp [read_write hc, hx]

/-- Any other access to the register window than an aligned 32-bit one is not allowed (20 R62). -/
theorem accessAllowed_eq_false {width : AccessWidth} {off : BitVec 8} (h : width ≠ .b32 ∨ off.toNat % 4 ≠ 0) :
    accessAllowed width off = false := by
  rcases h with h | h <;> simp [accessAllowed, h]

/-- Settles O48: neither a write nor a read of the register window is served unless the access is allowed. -/
theorem badAccessRefused : Obligations.BadAccessRefused := by
  intro s width off rest h
  have hbad := accessAllowed_eq_false h
  refine ⟨fun v hin => ?_, fun hin => ?_⟩ <;> rw [step_serves hin]
  · simp [serve, serveRegWrite, hbad]
  · simp [serve, serveRegRead, hbad]

end Sys2Proof.Machine

/-! PROOF. The command words (30 R90 to R101): the decoder answers a command on that command's word alone, read in turn
as four words, as the opcode map and as arithmetic on the word; and what a word does that reaches an idle block. -/

namespace Sys2Proof.Machine

/-! ### The words of the commands (30 R98) -/

/-- The decoder answers a command exactly on its word (30 R94, R98). -/
theorem decode_eq_command {w : Word} {i : Instr} : decode w = .command i ↔ w = encode i :=
  (decodeFields_eq_command (fieldsOf w) i).trans eq_wordOf_iff.symm

theorem decode_encode (i : Instr) : decode (encode i) = .command i :=
  decode_eq_command.mpr rfl

theorem encode_injective {i j : Instr} (h : encode i = encode j) : i = j :=
  Decoded.command.inj (by rw [← decode_encode i, h, decode_encode])

theorem encode_detectS : encode .detectS = 0x00000001#32 := by decide
theorem encode_detectV : encode .detectV = 0x00000011#32 := by decide
theorem encode_widen : encode .widen = 0x00000002#32 := by decide
theorem encode_narrow : encode .narrow = 0x00000003#32 := by decide

/-- Four words are legal (30 R96). -/
theorem decode_legal_iff {w : Word} : (∃ i, decode w = .command i) ↔
    w = 0x00000001#32 ∨ w = 0x00000011#32 ∨ w = 0x00000002#32 ∨ w = 0x00000003#32 := by
  simp only [decode_eq_command, ← encode_detectS, ← encode_detectV, ← encode_widen, ← encode_narrow]
  constructor
  · rintro ⟨i, rfl⟩
    cases i <;> simp
  · rintro (h | h | h | h) <;> exact ⟨_, h⟩

/-- Where the decoder answers no command, it answers a reason. -/
theorem decode_illegal {w : Word} (h : ¬ ∃ i, decode w = .command i) : ∃ e, decode w = .illegal e := by
  cases hd : decode w with
  | command i => exact absurd ⟨i, hd⟩ h
  | illegal e => exact ⟨e, rfl⟩

/-- Settles O1: the four words are the encodings, and no sample illegal word is one of them. -/
theorem commandWordsDecode : Obligations.CommandWordsDecode := by
  refine ⟨decode_encode .detectS, decode_encode .detectV, decode_encode .widen, decode_encode .narrow,
    encode_detectS, encode_detectV, encode_widen, encode_narrow, fun w hw => ?_⟩
  have hillegal : ¬ ∃ i, decode w = .command i := by
    rw [decode_legal_iff]
    simp only [List.mem_cons, List.not_mem_nil, or_false] at hw
    rcases hw with rfl | rfl | rfl | rfl | rfl | rfl | rfl <;> decide
  obtain ⟨e, he⟩ := decode_illegal hillegal
  rw [he, Decoded.instr?]

/-- A word is the table's 32-bit word of its own number (30 R90). -/
theorem tableWord_toNat (w : Word) : tableWord 32 w.toNat = w := by
  rw [tableWord, Nat.mod_eq_of_lt w.isLt, BitVec.ofNat_toNat, BitVec.setWidth_eq]

/-- Settles O2: the table's decoder sees the same word as the decoder. -/
theorem encodeThenDecode : Obligations.EncodeThenDecode := by
  refine fun i => ⟨decode_encode i, ?_, ?_⟩
  · rw [decodeTableWord, if_pos (le_refl 32), tableWord_toNat, decode_encode, Decoded.instr?]
  · cases i <;> decide

/-! ### The opcode map (30 R101) -/

/-- The row of a command in the opcode map: every bit of its word counts. -/
def rowOf (i : Instr) : OpcodeRow := ⟨i, 0xFFFFFFFF#32, encode i⟩

/-- The opcode map is the rows of the commands. -/
theorem mem_opcodeMap {row : OpcodeRow} : row ∈ opcodeMap ↔ ∃ i, row = rowOf i := by
  have hmap : opcodeMap = [rowOf .detectS, rowOf .detectV, rowOf .widen, rowOf .narrow] := by decide
  rw [hmap]
  constructor
  · intro h
    simp only [List.mem_cons, List.not_mem_nil, or_false] at h
    rcases h with h | h | h | h <;> exact ⟨_, h⟩
  · rintro ⟨i, rfl⟩
    cases i <;> simp

/-- A word selects a command's row exactly when it is the command's word. -/
theorem selects_rowOf {w : Word} {i : Instr} : (rowOf i).selects w = true ↔ w = encode i := by
  have hmask : w &&& 0xFFFFFFFF#32 = w := BitVec.and_allOnes
  rw [OpcodeRow.selects, rowOf, hmask, beq_iff_eq]

/-- Settles O4: a row is its command's, and a word is at most one command's. -/
theorem opcodeMapSelects : Obligations.OpcodeMapSelects := by
  refine fun w => ⟨fun i => ?_, fun row hrow row' hrow' => ?_⟩
  · rw [decode_eq_command]
    constructor
    · intro h
      exact ⟨rowOf i, mem_opcodeMap.mpr ⟨i, rfl⟩, selects_rowOf.mpr h, rfl⟩
    · rintro ⟨row, hrow, hsel, rfl⟩
      obtain ⟨i, rfl⟩ := mem_opcodeMap.mp hrow
      exact selects_rowOf.mp hsel
  · obtain ⟨i, rfl⟩ := mem_opcodeMap.mp hrow
    obtain ⟨j, rfl⟩ := mem_opcodeMap.mp hrow'
    refine ⟨rfl, fun hi hj => ?_⟩
    exact congrArg rowOf (encode_injective ((selects_rowOf.mp hi).symm.trans (selects_rowOf.mp hj)))

/-! ### The fields of a word (30 R91) -/

/-- The fields of a word are its remainder by 16, its bit 4 and its quotient by 32 (30 R91). -/
theorem fieldsOf_eq_iff {w : Word} {f : CommandFields} : fieldsOf w = f ↔
    w.toNat / 32 = f.rsv.toNat ∧ w.toNat % 16 = f.opc.toNat ∧ w.toNat / 16 % 2 = f.v.toNat := by
  obtain ⟨opc, v, rsv⟩ := f
  have hquot : w.toNat / 32 < 2 ^ 27 := by have := w.isLt; omega
  simp only [fieldsOf, CommandFields.mk.injEq, ← BitVec.toNat_inj, BitVec.extractLsb'_toNat,
    Nat.shiftRight_eq_div_pow]
  rw [show 2 ^ 5 = 32 from rfl, Nat.mod_eq_of_lt hquot, Nat.pow_zero, Nat.div_one]
  tauto

/-- A word is a command exactly when its fields have the command's values (30 R92, R93). -/
theorem decode_eq_command_fields {w : Word} {i : Instr} : decode w = .command i ↔
    w.toNat / 32 = i.fields.rsv.toNat ∧ w.toNat % 16 = i.fields.opc.toNat ∧ w.toNat / 16 % 2 = i.fields.v.toNat :=
  (decodeFields_eq_command (fieldsOf w) i).trans fieldsOf_eq_iff

/-- Settles O5: each clause states the values of one command's fields. -/
theorem fieldsSelectCommand : Obligations.FieldsSelectCommand := fun _ =>
  ⟨decode_eq_command_fields (i := .detectS), decode_eq_command_fields (i := .detectV),
    decode_eq_command_fields (i := .widen), decode_eq_command_fields (i := .narrow)⟩

/-! ### A word reaches an idle block (30 R94, R96) -/

/-- An error other than a failing access, raised by an idle block that has just cleared STATUS, changes STATUS and
FAULT_ADDR alone (60 R219). -/
theorem raiseError_acceptClear {s : State} (hi : s.phase = .idle) {e : ErrCode} (he : e ≠ .busError) (addr : Word) :
    raiseError (acceptClear s) e addr = { s with status := statusError e, faultAddr := 0#32 } := by
  rw [raiseError, if_neg he, ← hi]
  rfl

/-- A word that is no command ends with ILLEGAL_CMD at once (60 R212). -/
theorem commandWrite_illegal {s : State} {w : Word} (hi : s.phase = .idle) (hw : ¬ ∃ i, decode w = .command i) :
    commandWrite s w = .next { s with status := statusError .illegalCmd, faultAddr := 0#32 } := by
  obtain ⟨e, he⟩ := decode_illegal hw
  simp only [commandWrite, he]
  rw [issue_idle hi, raiseError_acceptClear hi (by decide)]

/-- Settles O3: the step is the CMD write, and the CMD write of a word that is no command ends with ILLEGAL_CMD. -/
theorem legalWordsAreExactlyFour : Obligations.LegalWordsAreExactlyFour := by
  refine fun w => ⟨decode_legal_iff, fun s rest hi hin h1 h11 h2 h3 => ?_⟩
  have hillegal : ¬ ∃ i, decode w = .command i := by
    rw [decode_legal_iff]
    rintro (h | h | h | h)
    exacts [h1 h, h11 h, h2 h, h3 h]
  rw [step_serves hin]
  exact (serveRegWrite_cmd _ w).trans (commandWrite_illegal hi hillegal)

/-! ### The frame of a command (30 R95) -/

/-- `s` with what a DETECT command's acceptance may write taken from `u`. -/
def withDetectState (s u : State) : State :=
  { s with
    phase := u.phase
    status := u.status
    faultAddr := u.faultAddr
    lat := u.lat
    seq := u.seq
    unread := u.unread
    racedOut := u.racedOut }

/-- DETECT, refused or accepted, writes nothing else (41 R130, 43 R189, 60 R219). -/
theorem startDetect_frame (ph : Phase) (n : Nat) (s : State) :
    ∃ u, startDetect ph n (acceptClear s) = withDetectState s u := by
  rcases startDetect_cases ph n (acceptClear s) with ⟨e, -, h⟩ | ⟨-, h⟩
  · exact ⟨raiseError (acceptClear s) e 0#32, h⟩
  · exact ⟨startDetect ph n (acceptClear s), by rw [h]; rfl⟩

/-- Settles O9: busy, the command is dropped; idle, each command writes what its own effect names. -/
theorem commandFrame : Obligations.CommandFrame := by
  intro i s t h
  rw [exec_eq_issue] at h
  cases h
  by_cases hi : s.phase = .idle
  · rw [issue_idle hi]
    cases i with
    | detectS =>
      obtain ⟨u, hu⟩ := startDetect_frame .runS 1 s
      simp [startScalar, hu, withDetectState]
    | detectV =>
      obtain ⟨u, hu⟩ := startDetect_frame .runV (firstLanes s.width) s
      simp [startVector, hu, withDetectState]
    | widen => simp [widenCmd]
    | narrow => simp [narrowCmd]
  · simp [issue_busy hi]

end Sys2Proof.Machine

/-! PROOF. The kernel sums: their two forms, their range and that of their partial sums, and uniform samples
(40 R112 to R116). -/

namespace Sys2Proof.Machine

/-! ### The two forms of a kernel sum (40 R114) -/

/-- The vertical six-term form is the convolution with Kv: its other coefficients are 0 (40 R112, R114). -/
theorem sumV_eq_convolve (w : Win Byte) : sumV w = convolve kernelV w := by
  have hcoeff : allNbrs.map (coefficient kernelV) = [-1, -2, -1, 0, 0, 0, 1, 2, 1] := by decide
  simp only [allNbrs, List.map_cons, List.map_nil, List.cons.injEq, and_true] at hcoeff
  simp only [sumV, convolve, allNbrs, hcoeff, List.map_cons, List.map_nil, List.sum_cons, List.sum_nil, Win.get]
  ring

/-- The horizontal six-term form is the convolution with Kh: its other coefficients are 0 (40 R112, R114). -/
theorem sumH_eq_convolve (w : Win Byte) : sumH w = convolve kernelH w := by
  have hcoeff : allNbrs.map (coefficient kernelH) = [-1, 0, 1, -2, 0, 2, -1, 0, 1] := by decide
  simp only [allNbrs, List.map_cons, List.map_nil, List.cons.injEq, and_true] at hcoeff
  simp only [sumH, convolve, allNbrs, hcoeff, List.map_cons, List.map_nil, List.sum_cons, List.sum_nil, Win.get]
  ring

/-- The sum over the nine neighbours is the double sum over the row and column offsets (40 R113, R114). -/
theorem sum_allNbrs_eq_offsets (kernel : List (List Int)) (sample : Int → Int → Int) :
    (allNbrs.map fun x => coefficient kernel x * sample (rowOffset x) (colOffset x)).sum =
      ([-1, 0, 1].map fun k => ([-1, 0, 1].map fun j =>
        (kernel.getD (k + 1).toNat []).getD (j + 1).toNat 0 * sample k j).sum).sum := by
  simp only [allNbrs, coefficient, rowOffset, colOffset, List.map_cons, List.map_nil, List.sum_cons, List.sum_nil]
  ring

section
variable {w : Win Byte} {sample : Int → Int → Int}
  (hw : ∀ x, ((w.get x).toNat : Int) = sample (rowOffset x) (colOffset x))
include hw

/-- The convolution as the double sum over the samples at the nine offsets (40 R114). -/
theorem convolve_eq_offsets (kernel : List (List Int)) :
    convolve kernel w = ([-1, 0, 1].map fun k => ([-1, 0, 1].map fun j =>
      (kernel.getD (k + 1).toNat []).getD (j + 1).toNat 0 * sample k j).sum).sum := by
  simp only [convolve, hw, sum_allNbrs_eq_offsets]

/-- The vertical six-term form over the samples at the offsets (40 R114). -/
theorem sumV_eq_samples : sumV w = -sample (-1) (-1) - 2 * sample (-1) 0 - sample (-1) 1 +
    sample 1 (-1) + 2 * sample 1 0 + sample 1 1 := by
  change -((w.get .a).toNat : Int) - 2 * (w.get .b).toNat - (w.get .c).toNat + (w.get .g).toNat +
    2 * (w.get .h).toNat + (w.get .i).toNat = _
  simp only [hw, rowOffset, colOffset]

/-- The horizontal six-term form over the samples at the offsets (40 R114). -/
theorem sumH_eq_samples : sumH w = -sample (-1) (-1) + sample (-1) 1 - 2 * sample 0 (-1) +
    2 * sample 0 1 - sample 1 (-1) + sample 1 1 := by
  change -((w.get .a).toNat : Int) + (w.get .c).toNat - 2 * (w.get .d).toNat + 2 * (w.get .f).toNat -
    (w.get .g).toNat + (w.get .i).toNat = _
  simp only [hw, rowOffset, colOffset]

end

/-- Settles O18: the samples at the nine offsets are the entries of the neighbourhood, so both forms of the sums speak
of the same integers. -/
theorem kernelSumForms : Obligations.KernelSumForms := by
  refine ⟨rfl, rfl, fun l m p r c _ sample hsample => ?_⟩
  have hw (x : Nbr) : (((neighbourhood l m p r c).get x).toNat : Int) = sample (rowOffset x) (colOffset x) := by
    rw [neighbourhood, Win.get_ofFn, hsample]
  exact ⟨(sumV_eq_convolve _).trans (convolve_eq_offsets hw kernelV), sumV_eq_samples hw,
    (sumH_eq_convolve _).trans (convolve_eq_offsets hw kernelH), sumH_eq_samples hw⟩

/-! ### The range of every partial sum (40 R115) -/

/-- The sum of any terms, none twice, is at most what the positive coefficients reach with every sample 255. -/
theorem partialSum_le (coeff : Nbr → Int) (w : Win Byte) {kept : List Nbr} (hk : kept.Nodup) :
    (kept.map fun x => coeff x * ((w.get x).toNat : Int)).sum ≤ (allNbrs.map fun x => max (coeff x) 0 * 255).sum := by
  have term (x : Nbr) : coeff x * ((w.get x).toNat : Int) ≤ max (coeff x) 0 * 255 := by
    have hbyte : (w.get x).toNat < 256 := (w.get x).isLt
    calc coeff x * ((w.get x).toNat : Int)
        ≤ max (coeff x) 0 * ((w.get x).toNat : Int) := by gcongr; exact le_max_left _ _
      _ ≤ max (coeff x) 0 * 255 := by gcongr; omega
  rw [← List.sum_toFinset _ hk, ← List.sum_toFinset _ (by decide : allNbrs.Nodup)]
  calc ∑ x ∈ kept.toFinset, coeff x * ((w.get x).toNat : Int)
      ≤ ∑ x ∈ kept.toFinset, max (coeff x) 0 * 255 := Finset.sum_le_sum fun x _ => term x
    _ ≤ ∑ x ∈ allNbrs.toFinset, max (coeff x) 0 * 255 :=
      Finset.sum_le_sum_of_subset_of_nonneg (fun x _ => by simp) fun x _ _ => by positivity

/-- When neither the positive nor the negative coefficients reach past `bound`, no partial sum does. -/
theorem abs_partialSum_le {coeff : Nbr → Int} {bound : Int}
    (hpos : (allNbrs.map fun x => max (coeff x) 0 * 255).sum ≤ bound)
    (hneg : (allNbrs.map fun x => max (-coeff x) 0 * 255).sum ≤ bound)
    (w : Win Byte) {kept : List Nbr} (hk : kept.Nodup) :
    |(kept.map fun x => coeff x * ((w.get x).toNat : Int)).sum| ≤ bound := by
  have hupper := partialSum_le coeff w hk
  have hlower := partialSum_le (fun x => -coeff x) w hk
  have hflip : (kept.map fun x => -coeff x * ((w.get x).toNat : Int)).sum =
      -(kept.map fun x => coeff x * ((w.get x).toNat : Int)).sum := by
    simp [List.sum_neg, Function.comp_def]
  exact abs_le.mpr ⟨by omega, by omega⟩

/-- Settles O19: the coefficients of either sign add up to 4 in both kernels, and 4 * 255 = 1020. -/
theorem kernelSumRange : Obligations.KernelSumRange := by
  refine ⟨fun w kept hk => ⟨?_, ?_⟩, kernelSums_bounds, fun d e f => ?_⟩
  · exact abs_partialSum_le (by decide) (by decide) w hk
  · exact abs_partialSum_le (by decide) (by decide) w hk
  · simp [sumV, sumH]

/-! ### Uniform samples (40 R116) -/

/-- The vertical coefficients cancel. -/
theorem sumV_uniform (v : Byte) : sumV (Win.ofFn fun _ => v) = 0 := by
  simp only [sumV, Win.ofFn]
  ring

/-- The horizontal coefficients cancel. -/
theorem sumH_uniform (v : Byte) : sumH (Win.ofFn fun _ => v) = 0 := by
  simp only [sumH, Win.ofFn]
  ring

/-- Without a gradient the pixel function is 0 (41 R131). -/
theorem spx_uniform (v : Byte) : spx (Win.ofFn fun _ => v) = 0#8 := by
  rw [spx, sumV_uniform, sumH_uniform]
  decide

/-- Every lane of uniform operands holds a uniform neighbourhood. -/
theorem laneWindow_uniform (v : Byte) (j : Fin 8) :
    laneWindow (Win.ofFn fun _ => Oct.const v) j = Win.ofFn fun _ => v := by
  apply Win.ext_get
  intro x
  simp [laneWindow]

/-- Settles O20: both sums cancel, and each lane of the vector datapath is the pixel function of its samples. -/
theorem uniformNeighbourhoodIsZero : Obligations.UniformNeighbourhoodIsZero := by
  refine fun v => ⟨sumV_uniform v, sumH_uniform v, spx_uniform v, fun j => ?_⟩
  rw [chunkResult_get, laneWindow_uniform, spx_uniform]

end Sys2Proof.Machine

/-! PROOF. The scalar detector: division and the range of the pixel function, DETECT.S accepted, and one scalar unit
of a run (41 R130 to R137). -/

namespace Sys2Proof.Machine

/-! ### The pixel function never wraps (41 R131 to R135) -/

/-- Settles O21: truncation drops the remainder on either side of zero, so the sign can be taken off before the
division; the examples are computed. -/
theorem truncatingDivision : Obligations.TruncatingDivision := by
  refine ⟨fun n => ?_, by decide⟩
  rw [absInt_tdiv, absInt_eq, Int.natCast_div, Int.natCast_natAbs]
  rfl

/-- The two kernel sums are not large together: their sum and their difference are each twice three samples less twice
three others, and 2 * 3 * 255 = 1530 (40 R114, 41 R135). -/
theorem kernelSums_joint (w : Win Byte) : absInt (sumV w) + absInt (sumH w) ≤ 1530 := by
  have small (x : Nbr) : (w.get x).toNat ≤ 255 := Nat.le_of_lt_succ (w.get x).isLt
  have ha := small .a
  have hb := small .b
  have hc := small .c
  have hd := small .d
  have hf := small .f
  have hg := small .g
  have hh := small .h
  have hi := small .i
  simp only [Win.get] at ha hb hc hd hf hg hh hi
  have hplus : |sumV w + sumH w| ≤ 1530 := by
    rw [abs_le]; unfold sumV sumH; omega
  have hminus : |sumV w - sumH w| ≤ 1530 := by
    rw [abs_le]; unfold sumV sumH; omega
  rw [abs_le] at hplus hminus
  unfold absInt
  split_ifs <;> omega

/-- The value before narrowing lies in 0..191, for 1530 / 8 < 192 (41 R135). -/
theorem pixelValue_bounds (w : Win Byte) :
    0 ≤ absInt (sumV w) / 8 + absInt (sumH w) / 8 ∧ absInt (sumV w) / 8 + absInt (sumH w) / 8 ≤ 191 := by
  have hjoint := kernelSums_joint w
  have hv : 0 ≤ absInt (sumV w) := absInt_eq _ ▸ abs_nonneg _
  have hh : 0 ≤ absInt (sumH w) := absInt_eq _ ▸ abs_nonneg _
  omega

/-- The accumulators hold the kernel sums exactly (41 R132). -/
theorem toInt_s32_sums (w : Win Byte) : (s32 (sumV w)).toInt = sumV w ∧ (s32 (sumH w)).toInt = sumH w := by
  obtain ⟨hv, hv', hh, hh'⟩ := kernelSums_bounds w
  exact ⟨toInt_s32 (by omega) (by omega), toInt_s32 (by omega) (by omega)⟩

/-- Settles O22: the sums fit the accumulators, and together they are at most 1530; sums 768 and 762 give 191. -/
theorem pixelNeverWraps : Obligations.PixelNeverWraps := by
  refine ⟨fun w => ?_, fun e => ?_⟩
  · obtain ⟨hlo, hhi⟩ := pixelValue_bounds w
    obtain ⟨hv, hh⟩ := toInt_s32_sums w
    rw [absInt_tdiv, absInt_tdiv, spx_eq]
    exact ⟨hv, hh, hlo, hhi, toNat_u8 hlo (by omega)⟩
  · have hv : sumV ⟨0#8, 0#8, 0#8, 0#8, e, 255#8, 3#8, 255#8, 255#8⟩ = 768 := by simp [sumV]
    have hh : sumH ⟨0#8, 0#8, 0#8, 0#8, e, 255#8, 3#8, 255#8, 255#8⟩ = 762 := by simp [sumH]
    rw [spx_eq, hv, hh]
    decide

/-! ### DETECT.S accepted (41 R130) -/

/-- An idle block accepts a DETECT command whose operands pass the checks, whichever detector it names (60 R218). -/
theorem issue_startDetect_legal {s : State} (hi : s.phase = .idle) (hd : s.bpp = 24#32)
    (hl : LatchLegal (latched s)) (ph : Phase) (n : Nat) :
    issue s (startDetect ph n) = { openWindows s (latched s) with
      status := statusClear
      faultAddr := 0#32
      phase := ph
      lat := latched s
      seq := ⟨0, 1, 1, n⟩ } := by
  have hcheck : checkDetectOperands (acceptClear s) = none := checkDetectOperands_eq_none.mpr ⟨hd, hl⟩
  rw [issue_idle hi, startDetect, hcheck]
  rfl

/-- STATUS reads 0x00000001 while a command runs with its other fields clear (10 R25, R36). -/
theorem statusWord_running {s : State} (hb : s.phase ≠ .idle) (hst : s.status = statusClear) :
    statusWord s = 0x00000001#32 := by
  rw [statusWord, busy_iff.mpr hb, hst]
  decide

/-- Settles O23: the checks pass, and the accepted state is the one written out. -/
theorem detectSAccepted : Obligations.DetectSAccepted := by
  intro s hi hd hl
  refine ⟨_, ?_, ?_, rfl⟩
  · rw [exec_eq_issue]
    exact congrArg Host.Outcome.next (issue_startDetect_legal hi hd hl .runS 1)
  · exact statusWord_running nofun rfl

/-! ### One scalar unit (41 R136, R137) -/

/-- A unit of an undisturbed run, of either detector, changes memory by its own writes alone (41 R136, 43 R187). -/
theorem blockStep_unitWrites {s : State} (h : Invariant s) (hbusy : s.phase ≠ .idle) (hq : RaceFree s)
    (hb : Backed s s.lat) : UnitWrites s.lat s.seq s.mem (blockStep s).mem := by
  obtain ⟨t, ht, -, -, hm⟩ := blockStep_unitDone (h.unitOf hbusy) (h.operands hbusy).width hb hq h.memCanonical
  rw [ht, unitAdvance_mem]
  exact hm

/-- Settles O27: the unit's one lane is its one write, and the turn's frame is the rest. -/
theorem scalarUnitWritesPixel : Obligations.ScalarUnitWritesPixel := by
  intro s h hph hin hq hb
  have hbusy : s.phase ≠ .idle := by rw [hph]; decide
  obtain ⟨-, hn⟩ := h.scalarSeq hph
  obtain ⟨t, hstep, rfl, hregs, hlat, -⟩ := blockTurnFrame.1 s hin
  obtain ⟨-, hwritten, hothers⟩ := blockStep_unitWrites h hbusy hq hb
  refine ⟨_, hstep, hwritten 0 (by omega), fun a ha => hothers a fun j hj => ?_, hlat, hregs⟩
  obtain rfl : j = 0 := by omega
  exact ha

/-- With memory behind both windows, a scalar unit accumulates its samples, raced or not, writes its byte and
advances: up to the advance, only the accumulators, memory and the draws change (41 R136). -/
theorem scalarUnit_backed {s : State} (h : Invariant s) (hph : s.phase = .runS) (hb : Backed s s.lat) :
    ∃ t, scalarUnit s = scalarAdvance t ∧ runFrame t = runFrame s ∧ t.seq = s.seq ∧
      SameDatapath (accumulate s (scalarSamples (nextDraw s))) t := by
  obtain ⟨hi, -⟩ := h.scalarSeq hph
  have hreads (x : Nbr) : memOK (nextDraw s) (nbrAddr (nextDraw s) x) = true := by
    obtain ⟨hlo, hhi⟩ := neighbour_inWindow hi x
    exact hb.1.memOK hlo hhi
  have hwrites : ∀ p ∈ scalarStores (accumulate (nextDraw s) (scalarSamples (nextDraw s))),
      memOK (accumulate (nextDraw s) (scalarSamples (nextDraw s))) p.1 = true := by
    rw [scalarStores_accumulate, List.forall_mem_singleton]
    obtain ⟨hlo, hhi⟩ := outAddr_inWindow hi
    exact hb.2.memOK hlo hhi
  have hunit := storeThen_done hwrites scalarAdvance
  refine ⟨_, .trans (by rw [scalarUnit, scalarLoad_done hreads]) hunit, ?_⟩
  rw [storeBytes_frame]
  exact ⟨rfl, rfl, rfl, rfl, rfl, rfl, rfl, rfl⟩

/-- The advance leaves the datapath registers alone (41 R137). -/
theorem scalarAdvance_datapath (s : State) : SameDatapath s (scalarAdvance s) := by
  rcases scalarAdvance_cases s with ⟨q, ha, -⟩ | ⟨-, -, -, ha⟩
  all_goals rw [ha]; exact ⟨rfl, rfl, rfl, rfl, rfl, rfl⟩

/-- Settles O28: the accumulators are set before the write, and neither the write nor the advance touches them. -/
theorem accumulatorsHoldSums : Obligations.AccumulatorsHoldSums := by
  intro s h hph hin hq hb
  obtain ⟨t, hunit, -, -, hvop, hsv, hsh, hvr, hssv, hssh⟩ := scalarUnit_backed h hph hb
  obtain ⟨hvop', hsv', hsh', hvr', hssv', hssh'⟩ := scalarAdvance_datapath t
  rw [scalarSamples_eq (s := nextDraw s) hq] at hssv hssh
  obtain ⟨hv, hh⟩ := toInt_s32_sums (neighbourhood s.lat s.mem s.seq.p s.seq.r s.seq.c)
  have hstep : step s = .next (scalarAdvance t) := by rw [step_alone hin, blockStep_runS hph, hunit]
  exact ⟨_, hstep, (congrArg BitVec.toInt (hssv'.trans hssv)).trans hv,
    (congrArg BitVec.toInt (hssh'.trans hssh)).trans hh, hvop'.trans hvop, hsv'.trans hsv, hsh'.trans hsh,
    hvr'.trans hvr⟩

/-- Settles O29: the advance takes the first of its four branches that applies, and STATUS reads busy in all but the
last. -/
theorem scalarUnitAdvances : Obligations.ScalarUnitAdvances := by
  intro s h hph hin hb
  have hbusy : s.phase ≠ .idle := by rw [hph]; decide
  obtain ⟨t, hunit, hframe, hseq, -⟩ := scalarUnit_backed h hph hb
  obtain ⟨hphase, hlat, -⟩ := fields_of_frame hframe
  have hstatus : t.status = statusClear := (congrArg State.status hframe :).trans (h.statusBusy hbusy)
  have moved (q : SeqPos) : (setSeq t q).phase = .runS ∧ (setSeq t q).seq = q ∧
      statusWord (setSeq t q) = 0x00000001#32 :=
    ⟨hphase.trans hph, rfl, statusWord_running (hphase ▸ hbusy) hstatus⟩
  have hadvance := scalarAdvance_cases t
  rw [hseq, hlat] at hadvance
  refine ⟨scalarAdvance t, by rw [step_alone hin, blockStep_runS hph, hunit], ?_⟩
  rcases hadvance with ⟨q, ha, ⟨hc, rfl⟩ | ⟨hc, hr, rfl⟩ | ⟨hc, hr, hp, rfl⟩⟩ | ⟨hc, hr, hp, ha⟩
  · rw [ha, if_pos (by omega)]
    exact moved _
  · rw [ha, if_neg (by omega), if_pos (by omega)]
    exact moved _
  · rw [ha, if_neg (by omega), if_neg (by omega), if_pos hp]
    exact moved _
  · rw [ha, if_neg (by omega), if_neg (by omega), if_neg hp]
    exact ⟨rfl, by simp [statusWord, busy, statusDone]⟩

end Sys2Proof.Machine

/-! PROOF. The lane transcoder: WIDEN and NARROW of one element, both commands accepted by an idle block, and their
round trip (42 R150 to R154). -/

namespace Sys2Proof.Machine

/-! ### One element (42 R150, R151, R154) -/

/-- Widening puts a zero byte above the byte (42 R150). -/
theorem zext16_eq_append (b : Byte) : zext16 b = 0#8 ++ b :=
  BitVec.setWidth_eq_append (by decide)

/-- Narrowing drops the byte that widening adds (42 R154). -/
theorem lowByte_zext16 (b : Byte) : lowByte (zext16 b) = b := by
  rw [zext16_eq_append, lowByte, BitVec.extractLsb'_append_eq_right]

/-- A lane is its high byte above its low byte (42 R151). -/
theorem highByte_append_lowByte (l : Lane) : l.extractLsb' 8 8 ++ lowByte l = l :=
  BitVec.extractLsb'_append_extractLsb'

/-- Widening gives back a narrowed lane exactly when the dropped byte was zero (42 R154). -/
theorem zext16_lowByte_eq_iff (l : Lane) : zext16 (lowByte l) = l ↔ l.extractLsb' 8 8 = 0#8 :=
  calc zext16 (lowByte l) = l
      ↔ 0#8 ++ lowByte l = l.extractLsb' 8 8 ++ lowByte l := by rw [highByte_append_lowByte, zext16_eq_append]
    _ ↔ 0#8 = l.extractLsb' 8 8 := BitVec.append_left_inj _
    _ ↔ l.extractLsb' 8 8 = 0#8 := eq_comm

/-! ### Eight elements (42 R154, R156) -/

/-- Every byte survives widening, so all eight do (42 R154). -/
theorem narrowLanes_widenBytes (b : Oct Byte) : narrowLanes (widenBytes b) = b := by
  refine Oct.ext_get fun j => ?_
  rw [narrowLanes, Oct.get_map, widenBytes, Oct.get_map, lowByte_zext16]

theorem widenBytes_narrowLanes_get (l : Oct Lane) (j : Fin 8) :
    (widenBytes (narrowLanes l)).get j = zext16 (lowByte (l.get j)) := by
  rw [widenBytes, Oct.get_map, narrowLanes, Oct.get_map]

/-- The lanes that survive narrowing are those whose high bytes are zero (42 R154). -/
theorem widenBytes_narrowLanes_eq_iff (l : Oct Lane) :
    widenBytes (narrowLanes l) = l ↔ ∀ j, (l.get j).extractLsb' 8 8 = 0#8 := by
  simp only [← zext16_lowByte_eq_iff, ← widenBytes_narrowLanes_get]
  exact ⟨fun h j => congrArg (Oct.get · j) h, Oct.ext_get⟩

/-! ### The LANE registers (10 R32, R33) -/

/-- A byte of a register above all the bits below it (10 R32). -/
theorem byteOf_append_extractLsb' (w : Word) (i : Nat) :
    byteOf w i ++ w.extractLsb' 0 (8 * i) = w.extractLsb' 0 (8 + 8 * i) :=
  BitVec.extractLsb'_append_extractLsb'_eq_extractLsb' (Nat.zero_add _).symm

/-- A register is its four bytes (10 R32). -/
theorem byteOf_append_eq_self (w : Word) : byteOf w 3 ++ (byteOf w 2 ++ (byteOf w 1 ++ byteOf w 0)) = w :=
  calc byteOf w 3 ++ (byteOf w 2 ++ (byteOf w 1 ++ byteOf w 0))
      = byteOf w 3 ++ (byteOf w 2 ++ w.extractLsb' 0 16) :=
        congrArg (fun v => byteOf w 3 ++ (byteOf w 2 ++ v)) (byteOf_append_extractLsb' w 1)
    _ = byteOf w 3 ++ w.extractLsb' 0 24 := congrArg (fun v => byteOf w 3 ++ v) (byteOf_append_extractLsb' w 2)
    _ = w.extractLsb' 0 32 := byteOf_append_extractLsb' w 3
    _ = w := BitVec.extractLsb'_eq_self

/-- The low byte of a register's half is a byte of the register (10 R32, R33). -/
theorem lowByte_halfOf (w : Word) (k : Nat) : lowByte (halfOf w k) = w.extractLsb' (16 * k) 8 := by
  apply BitVec.eq_of_getLsbD_eq
  intro i hi
  have hhalf : i < 16 := by omega
  simp [lowByte, halfOf, hi, hhalf]

/-- Four bytes make the same word joined in pairs or one after another (10 R32). -/
theorem append_bytes_pairs (b3 b2 b1 b0 : Byte) : b3 ++ (b2 ++ (b1 ++ b0)) = (b3 ++ b2) ++ (b1 ++ b0) :=
  BitVec.append_assoc'

theorem halfOf_append_low (x y : Lane) : halfOf (x ++ y) 0 = y := BitVec.extractLsb'_append_eq_right

theorem halfOf_append_high (x y : Lane) : halfOf (x ++ y) 1 = x := BitVec.extractLsb'_append_eq_left

/-- The lanes written to the LANE_W registers are the lanes they hold (10 R33). -/
theorem laneHalves_writeLaneHalves (s : State) (l : Oct Lane) : laneHalves (writeLaneHalves s l) = l := by
  simp only [laneHalves, writeLaneHalves, halfOf_append_low, halfOf_append_high]

/-! ### The commands accepted (42 R152, R153) -/

/-- STATUS reads 0x00000002 once a command has completed (10 R25, R36). -/
theorem statusWord_done {s : State} (hi : s.phase = .idle) (hst : s.status = statusDone) :
    statusWord s = 0x00000002#32 := by
  rw [statusWord, not_busy_iff.mpr hi, hst]
  decide

theorem exec_widen_idle {s : State} (hi : s.phase = .idle) : exec .widen s = .next (widenCmd (acceptClear s)) := by
  rw [exec_eq_issue, issue_idle hi]

theorem exec_narrow_idle {s : State} (hi : s.phase = .idle) : exec .narrow s = .next (narrowCmd (acceptClear s)) := by
  rw [exec_eq_issue, issue_idle hi]

/-- WIDEN writes the four LANE_W registers, two widened bytes each, STATUS and FAULT_ADDR (42 R152, 30 R94). -/
theorem widenCmd_acceptClear (s : State) : widenCmd (acceptClear s) = { s with
    status := statusDone
    faultAddr := 0#32
    laneW0 := zext16 (byteOf s.laneB0 1) ++ zext16 (byteOf s.laneB0 0)
    laneW1 := zext16 (byteOf s.laneB0 3) ++ zext16 (byteOf s.laneB0 2)
    laneW2 := zext16 (byteOf s.laneB1 1) ++ zext16 (byteOf s.laneB1 0)
    laneW3 := zext16 (byteOf s.laneB1 3) ++ zext16 (byteOf s.laneB1 2) } := rfl

/-- Settles O10: the bytes of LANE_B, each with a zero byte above it. -/
theorem widenCompletes : Obligations.WidenCompletes := by
  refine ⟨decode_encode .widen, fun s hi => ⟨_, exec_widen_idle hi, statusWord_done hi rfl, ?_⟩⟩
  simp only [widenCmd_acceptClear, zext16_eq_append, byteOf, statusDone, Nat.reduceMul]

/-- NARROW writes the two LANE_B registers, four low bytes each, STATUS and FAULT_ADDR (42 R153, 30 R94). -/
theorem narrowCmd_acceptClear (s : State) : narrowCmd (acceptClear s) = { s with
    status := statusDone
    faultAddr := 0#32
    laneB0 := lowByte (halfOf s.laneW1 1) ++ (lowByte (halfOf s.laneW1 0) ++
      (lowByte (halfOf s.laneW0 1) ++ lowByte (halfOf s.laneW0 0)))
    laneB1 := lowByte (halfOf s.laneW3 1) ++ (lowByte (halfOf s.laneW3 0) ++
      (lowByte (halfOf s.laneW2 1) ++ lowByte (halfOf s.laneW2 0))) } := rfl

/-- Settles O11: the low byte of each half of LANE_W. -/
theorem narrowCompletes : Obligations.NarrowCompletes := by
  refine ⟨decode_encode .narrow, fun s hi => ⟨_, exec_narrow_idle hi, statusWord_done hi rfl, ?_⟩⟩
  simp only [narrowCmd_acceptClear, append_bytes_pairs, lowByte_halfOf, statusDone, Nat.reduceMul]

/-! ### The round trip (42 R154) -/

/-- The lanes WIDEN leaves in LANE_W are the widened bytes of LANE_B (42 R152). -/
theorem laneHalves_widenCmd (s : State) : laneHalves (widenCmd s) = widenBytes (laneBytes s) :=
  laneHalves_writeLaneHalves s _

/-- Where LANE_W holds the widened bytes of another state's LANE_B, NARROW writes that LANE_B (42 R153). -/
theorem narrowCmd_of_widened {s t : State} (h : laneHalves t = widenBytes (laneBytes s)) :
    (narrowCmd t).laneB0 = s.laneB0 ∧ (narrowCmd t).laneB1 = s.laneB1 := by
  rw [narrowCmd, h, narrowLanes_widenBytes]
  exact ⟨byteOf_append_eq_self s.laneB0, byteOf_append_eq_self s.laneB1⟩

/-- Settles O12: an element survives widening, and survives narrowing exactly when its high byte is zero. -/
theorem transcoderRoundTrip : Obligations.TranscoderRoundTrip :=
  ⟨narrowLanes_widenBytes, fun s hi => ⟨_, _, exec_widen_idle hi, exec_narrow_idle hi,
    narrowCmd_of_widened (laneHalves_widenCmd (acceptClear s))⟩, widenBytes_narrowLanes_eq_iff⟩

end Sys2Proof.Machine

/-! PROOF. The vectorized detector (43): its lane arithmetic on bit patterns and on exact integers, DETECT.V accepted,
and one chunk of a run with its advance. -/

namespace Sys2Proof.Machine

/-! ### The primitives on bit patterns (43 R171 to R176) -/

/-- LNEG is bit-vector negation (43 R171). -/
theorem lneg_get_eq_neg (x : Oct Lane) (j : Fin 8) : (lneg x).get j = -x.get j := by
  rw [lneg_get, u16, BitVec.ofInt_neg, BitVec.ofInt_toInt]

/-- LADD is bit-vector addition (43 R173). -/
theorem ladd_get_eq_add (x y : Oct Lane) (j : Fin 8) : (ladd x y).get j = x.get j + y.get j := by
  rw [ladd_get, u16, BitVec.ofInt_add, BitVec.ofInt_toInt, BitVec.ofInt_toInt]

/-- LSHL1 is bit-vector doubling (43 R172). -/
theorem lshl1_get_eq_two_mul (x : Oct Lane) (j : Fin 8) : (lshl1 x).get j = 2#16 * x.get j := by
  rw [lshl1_get, u16, BitVec.ofInt_mul, BitVec.ofInt_toInt]
  rfl

/-- A doubled pattern is the pattern moved up by one bit, 0 below (43 R172). -/
theorem two_mul_eq_append (x : Lane) : 2#16 * x = x.extractLsb' 0 15 ++ 0#1 := by
  rw [BitVec.mul_comm]
  exact (BitVec.shiftLeft_eq_mul_twoPow x 1).symm.trans (BitVec.shiftLeft_eq_concat_of_lt (by decide))

/-- Settles O13: each primitive is the bit-vector operation on the lane. -/
theorem laneNegateShiftAdd : Obligations.LaneNegateShiftAdd := fun x y j =>
  ⟨lneg_get_eq_neg x j, (lshl1_get_eq_two_mul x j).trans (two_mul_eq_append _), ladd_get_eq_add x y j⟩

/-- LABS negates exactly the negative patterns (43 R174). -/
theorem labs_get_eq_ite (x : Oct Lane) (j : Fin 8) :
    (labs x).get j = if (x.get j).msb then -x.get j else x.get j := by
  rw [labs_get, BitVec.msb_eq_toInt, u16, absInt]
  by_cases hneg : (x.get j).toInt < 0
  · simp [hneg, BitVec.ofInt_neg]
  · simp [hneg]

/-- LASR3 is the arithmetic right shift of the pattern (43 R175). -/
theorem lasr3_get_eq_sshiftRight (x : Oct Lane) (j : Fin 8) : (lasr3 x).get j = (x.get j).sshiftRight 3 := by
  rw [lasr3_get, ← u16_toInt ((x.get j).sshiftRight 3), BitVec.toInt_sshiftRight, Int.shiftRight_eq_div_pow]
  rfl

/-- The arithmetic right shift by 3 puts three copies of the sign bit above the upper 13 bits (43 R175). -/
theorem sshiftRight_three_eq_append (x : Lane) : x.sshiftRight 3 =
    x.extractLsb' 15 1 ++ (x.extractLsb' 15 1 ++ (x.extractLsb' 15 1 ++ x.extractLsb' 3 13)) := by
  refine BitVec.eq_of_getLsbD_eq fun i hi => ?_
  simp only [BitVec.getLsbD_sshiftRight, BitVec.getLsbD_append, BitVec.getLsbD_extractLsb', BitVec.msb_eq_getLsbD_last]
  interval_cases i <;> simp

/-- Settles O14: both primitives on the pattern, and the shift once more on the signed reading. -/
theorem laneAbsAndShift : Obligations.LaneAbsAndShift := by
  refine fun x j => ⟨labs_get_eq_ite x j, ?_, ?_⟩
  · rw [lasr3_get_eq_sshiftRight, sshiftRight_three_eq_append]
  · rw [lasr3_get_eq_sshiftRight, BitVec.toInt_sshiftRight, Int.shiftRight_eq_div_pow,
      Int.fdiv_eq_ediv_of_nonneg _ (by norm_num)]
    rfl

/-- LNEG of LSHL1 multiplies by -2 (43 R176). -/
theorem lneg_lshl1_get (x : Oct Lane) (j : Fin 8) : (lneg (lshl1 x)).get j = (-2 : BitVec 16) * x.get j := by
  rw [lneg_get_eq_neg, lshl1_get_eq_two_mul, neg_mul]
  rfl

/-- Settles O15: the coefficients are multiplications modulo 2^16, and those commute. -/
theorem coefficientsWithoutMultiplier : Obligations.CoefficientsWithoutMultiplier := by
  refine fun x => ⟨Oct.ext_get fun j => ?_, fun j => ⟨lshl1_get_eq_two_mul x j, ?_, lneg_lshl1_get x j⟩⟩
  · rw [lneg_get_eq_neg, lshl1_get_eq_two_mul, lshl1_get_eq_two_mul, lneg_get_eq_neg, mul_neg]
  · rw [lneg_get_eq_neg, neg_one_mul]

/-! ### Partial values as exact integers (43 R178, R179, R182) -/

/-- Terms that are narrowed addends sum up, with LADD, to the narrowed sum (43 R173). -/
theorem foldl_ladd_get {j : Fin 8} {terms : List (Oct Lane)} {addends : List Int}
    (h : List.Forall₂ (fun t v => t.get j = u16 v) terms addends) :
    ∀ {acc : Oct Lane} {v : Int}, acc.get j = u16 v → (terms.foldl ladd acc).get j = u16 (v + addends.sum) := by
  induction h with
  | nil => intro acc v hacc; simpa using hacc
  | cons hterm _ ih =>
    intro acc v hacc
    rw [List.foldl_cons, ih (ladd_u16 hacc hterm), List.sum_cons, add_assoc]

/-- A partial value of narrowed addends is their narrowed partial sum. -/
theorem partialValue_get {j : Fin 8} {terms : List (Oct Lane)} {addends : List Int}
    (h : List.Forall₂ (fun t v => t.get j = u16 v) terms addends) (k : Nat) :
    (partialValue terms k).get j = u16 (addends.take k).sum := by
  rw [partialValue, foldl_ladd_get (List.forall₂_take k h) (laneZero_get j), zero_add]

/-- The vertical terms are the narrowed vertical addends (43 R176, R178). -/
theorem verticalTerms_narrowed (b : Win (Oct Byte)) (j : Fin 8) :
    List.Forall₂ (fun t v => t.get j = u16 v) (verticalTerms (widened b)) (verticalAddends (laneWindow b j)) := by
  have lane (x : Nbr) := widened_get b x j
  exact .cons (lneg_u16 (lane .a)) <| .cons (lneg_u16 (lshl1_u16 (lane .b))) <| .cons (lneg_u16 (lane .c)) <|
    .cons (lane .g) <| .cons (lshl1_u16 (lane .h)) <| .cons (lane .i) .nil

/-- The horizontal terms are the narrowed horizontal addends (43 R176, R179). -/
theorem horizontalTerms_narrowed (b : Win (Oct Byte)) (j : Fin 8) :
    List.Forall₂ (fun t v => t.get j = u16 v) (horizontalTerms (widened b))
      (horizontalAddends (laneWindow b j)) := by
  have lane (x : Nbr) := widened_get b x j
  exact .cons (lneg_u16 (lane .a)) <| .cons (lane .c) <| .cons (lneg_u16 (lshl1_u16 (lane .d))) <|
    .cons (lshl1_u16 (lane .f)) <| .cons (lneg_u16 (lane .g)) <| .cons (lane .i) .nil

/-- The vertical addends are the terms of the kernel sum at six neighbours (40 R112, R114). -/
theorem verticalAddends_eq_map (w : Win Byte) : verticalAddends w =
    [Nbr.a, .b, .c, .g, .h, .i].map fun x => coefficient kernelV x * ((w.get x).toNat : Int) := by
  simp [verticalAddends, coefficient, kernelV, rowOffset, colOffset, Win.get]

/-- The horizontal addends are the terms of the kernel sum at six neighbours (40 R112, R114). -/
theorem horizontalAddends_eq_map (w : Win Byte) : horizontalAddends w =
    [Nbr.a, .c, .d, .f, .g, .i].map fun x => coefficient kernelH x * ((w.get x).toNat : Int) := by
  simp [horizontalAddends, coefficient, kernelH, rowOffset, colOffset, Win.get]

/-- Every partial sum lies in [-1020, 1020], being a sum of some of the kernel's terms (40 R115, 43 R182). -/
theorem partialSums_bounds (w : Win Byte) (k : Nat) :
    |((verticalAddends w).take k).sum| ≤ 1020 ∧ |((horizontalAddends w).take k).sum| ≤ 1020 := by
  rw [verticalAddends_eq_map, horizontalAddends_eq_map, ← List.map_take, ← List.map_take]
  exact ⟨(kernelSumRange.1 w _ (.sublist (List.take_sublist k _) (by decide))).1,
    (kernelSumRange.1 w _ (.sublist (List.take_sublist k _) (by decide))).2⟩

/-- A partial value whose partial sum stays in [-1020, 1020] reads as it (43 R182). -/
theorem partialValue_toInt {j : Fin 8} {terms : List (Oct Lane)} {addends : List Int}
    (h : List.Forall₂ (fun t v => t.get j = u16 v) terms addends) {k : Nat} (hk : |(addends.take k).sum| ≤ 1020) :
    ((partialValue terms k).get j).toInt = (addends.take k).sum := by
  obtain ⟨hlo, hhi⟩ := abs_le.mp hk
  rw [partialValue_get h, toInt_u16 (by omega) (by omega)]

/-- An operand holds a byte, and its doubled and negated forms read exactly (43 R171, R172, R182). -/
theorem operand_exact (b : Win (Oct Byte)) (x : Nbr) (j : Fin 8) :
    ∃ v : Int, 0 ≤ v ∧ v ≤ 255 ∧ v = ((b.get x).get j).toNat ∧
      (((widened b).get x).get j).toInt = v ∧
      ((lneg ((widened b).get x)).get j).toInt = -v ∧
      ((lshl1 ((widened b).get x)).get j).toInt = 2 * v ∧
      ((lneg (lshl1 ((widened b).get x))).get j).toInt = -(2 * v) := by
  have hbyte := ((b.get x).get j).isLt
  have hop : ((widened b).get x).get j = u16 (((b.get x).get j).toNat : Int) := by
    rw [widened_get, laneWindow, Win.get_ofFn]
  refine ⟨_, by omega, by omega, rfl, ?_, ?_, ?_, ?_⟩
  · rw [hop, toInt_u16 (by omega) (by omega)]
  · rw [lneg_u16 hop, toInt_u16 (by omega) (by omega)]
  · rw [lshl1_u16 hop, toInt_u16 (by omega) (by omega)]
  · rw [lneg_u16 (lshl1_u16 hop), toInt_u16 (by omega) (by omega)]

/-- LABS and LASR3 of a lane in the range of a kernel sum read exactly (43 R174, R175, R182). -/
theorem absShift_exact {x : Oct Lane} {j : Fin 8} {v : Int} (h : x.get j = u16 v) (hlo : -1020 ≤ v)
    (hhi : v ≤ 1020) : (x.get j).toInt = v ∧ ((labs x).get j).toInt = |v| ∧
      ((lasr3 (labs x)).get j).toInt = |v| / 8 ∧ |v| / 8 ≤ 127 := by
  have hread : (x.get j).toInt = v := by rw [h, toInt_u16 (by omega) (by omega)]
  have hpos : 0 ≤ |v| := abs_nonneg v
  have hmax : |v| ≤ 1020 := abs_le.mpr ⟨hlo, hhi⟩
  refine ⟨hread, ?_, ?_, by omega⟩
  · rw [labs_get, hread, absInt_eq, toInt_u16 (by omega) (by omega)]
  · rw [lasr3_labs_u16 h hlo hhi, absInt_eq, toInt_u16 (by omega) (by omega)]

/-- The final LADD reads exactly (43 R180, R182). -/
theorem chunkResult_toInt (b : Win (Oct Byte)) (j : Fin 8) :
    ((chunkResult (verticalSum (widened b)) (horizontalSum (widened b))).get j).toInt =
      |sumV (laneWindow b j)| / 8 + |sumH (laneWindow b j)| / 8 := by
  obtain ⟨hlo, hhi⟩ := pixelValue_bounds (laneWindow b j)
  rw [chunkResult_get_widened, toInt_zext16, spx_eq, toNat_u8 hlo (by omega), absInt_eq, absInt_eq]

/-- A lane of zeros holds 0 in every partial value and in the result (43 R177, R182). -/
theorem zeroLane_exact {b : Win (Oct Byte)} {j : Fin 8} (hz : ∀ x, (b.get x).get j = 0#8) :
    (∀ k, (partialValue (verticalTerms (widened b)) k).get j = 0#16 ∧
      (partialValue (horizontalTerms (widened b)) k).get j = 0#16) ∧
    (chunkResult (verticalSum (widened b)) (horizontalSum (widened b))).get j = 0#16 := by
  have hw : laneWindow b j = Win.ofFn fun _ => 0#8 := Win.ext_get fun x => by simp [laneWindow, hz]
  have hv : verticalAddends (laneWindow b j) = List.replicate 6 0 := by rw [hw]; rfl
  have hh : horizontalAddends (laneWindow b j) = List.replicate 6 0 := by rw [hw]; rfl
  have hzero (k : Nat) : u16 ((List.replicate 6 (0 : Int)).take k).sum = 0#16 := by
    rw [List.take_replicate, List.sum_replicate, smul_zero]
    rfl
  refine ⟨fun k => ⟨?_, ?_⟩, ?_⟩
  · rw [partialValue_get (verticalTerms_narrowed b j), hv, hzero]
  · rw [partialValue_get (horizontalTerms_narrowed b j), hh, hzero]
  · rw [chunkResult_get_widened, hw, spx_uniform]
    rfl

/-- Settles O16: every lane is the narrowing of an exact integer, and each of these integers fits the lane. -/
theorem laneSumsExact : Obligations.LaneSumsExact := by
  refine ⟨fun v => ⟨rfl, rfl⟩, fun s x j hj => ?_, fun b j => ?_⟩
  · rw [laneSamples, Oct.get_ofFn, if_neg (Nat.not_lt.mpr hj)]
  · obtain ⟨hv, hv', hh, hh'⟩ := kernelSums_bounds (laneWindow b j)
    obtain ⟨hsv, habsV, hshiftV, hmaxV⟩ := absShift_exact (verticalSum_get b j) hv hv'
    obtain ⟨hsh, habsH, hshiftH, hmaxH⟩ := absShift_exact (horizontalSum_get b j) hh hh'
    obtain ⟨-, hmax⟩ := pixelValue_bounds (laneWindow b j)
    rw [absInt_eq, absInt_eq] at hmax
    refine ⟨fun x => operand_exact b x j, fun k => ?_, hsv, hsh, habsV, habsH, hshiftV, hshiftH, hmaxV, hmaxH,
      chunkResult_toInt b j, hmax, zeroLane_exact⟩
    obtain ⟨hpartV, hpartH⟩ := partialSums_bounds (laneWindow b j) k
    exact ⟨partialValue_toInt (verticalTerms_narrowed b j) hpartV, hpartV,
      partialValue_toInt (horizontalTerms_narrowed b j) hpartH, hpartH⟩

/-- Settles O17: both arithmetics compute the floors of the absolute sums. -/
theorem chunkLaneEqualsScalarPixel : Obligations.ChunkLaneEqualsScalarPixel := chunkResult_get

/-! ### DETECT.V accepted (43 R189) -/

/-- Settles O24: the checks pass, and the accepted state is the one written out. -/
theorem detectVAccepted : Obligations.DetectVAccepted := by
  intro s hi hd hl
  refine ⟨_, ?_, ?_, rfl⟩
  · rw [exec_eq_issue]
    exact congrArg Host.Outcome.next (issue_startDetect_legal hi hd hl .runV (firstLanes s.width))
  · exact statusWord_running nofun rfl

/-! ### One chunk (43 R177 to R188) -/

/-- Settles O30: the turn's writes are the unit's, and the turn's frame is the rest. -/
theorem vectorUnitWritesChunk : Obligations.VectorUnitWritesChunk := by
  intro s h hph hin hq hb
  have hbusy : s.phase ≠ .idle := by rw [hph]; decide
  obtain ⟨t, hstep, rfl, hregs, hlat, -⟩ := blockTurnFrame.1 s hin
  obtain ⟨-, hwritten, hothers⟩ := blockStep_unitWrites h hbusy hq hb
  exact ⟨_, hstep, hwritten, hothers, hlat, hregs⟩

/-- Memory is not in a run's frame. -/
theorem runFrame_setMem (s : State) (m : Memory) : runFrame (setMem s m) = runFrame s := rfl

/-- A chunk's draws and datapath are not in a run's frame. -/
theorem runFrame_chunkDone (s : State) : runFrame (chunkDone (nextDraw s)) = runFrame s := by rfl

/-- With memory behind both windows, a chunk's reads and writes succeed, raced or not, and it advances: up to the
advance, only memory, the datapath and the draws change (43 R187). -/
theorem vectorUnit_backed {s : State} (hu : UnitOf .runV s.lat s.seq) (hw : 3 ≤ s.lat.w.toNat)
    (hb : Backed s s.lat) : ∃ t, vectorUnit s = vectorAdvance t ∧ runFrame t = runFrame s ∧ t.seq = s.seq := by
  have hreads (x : Nbr) (j : Fin 8) (hj : j.val < (nextDraw s).seq.n) :
      memOK (nextDraw s) (nbrAddr (nextDraw s) x + j.val) = true := unitReads_ok hu hw hb x hj
  have hwrites : ∀ p ∈ vectorStores (chunkDone (nextDraw s)), memOK (chunkDone (nextDraw s)) p.1 = true := by
    intro p hp
    obtain ⟨j, hj, rfl⟩ := List.mem_map.mp hp
    obtain ⟨hlo, hhi⟩ := outAddr_inWindow (hu.interior hw ((mem_activeLanes _ j).mp hj))
    exact hb.2.memOK (by exact_mod_cast hlo) (by exact_mod_cast hhi)
  have hunit := storeThen_done hwrites vectorAdvance
  refine ⟨_, .trans (by rw [vectorUnit, vectorLoad_done hreads]) hunit, ?_⟩
  rw [storeBytes_frame]
  exact ⟨(runFrame_setMem _ _).trans (runFrame_chunkDone s), rfl⟩

/-- Settles O32: the advance takes the first of its four branches that applies, and STATUS reads busy in all but the
last. -/
theorem vectorUnitAdvances : Obligations.VectorUnitAdvances := by
  intro s h hph hin hb
  have hbusy : s.phase ≠ .idle := by rw [hph]; decide
  have hw : 3 ≤ s.lat.w.toNat := (h.operands hbusy).width
  obtain ⟨t, hunit, hframe, hseq⟩ := vectorUnit_backed (hph ▸ h.unitOf hbusy) hw hb
  obtain ⟨hphase, hlat, -⟩ := fields_of_frame hframe
  have hstatus : t.status = statusClear := (congrArg State.status hframe :).trans (h.statusBusy hbusy)
  have moved {q q' : SeqPos} (hq : q = q') : (setSeq t q).phase = .runV ∧
      statusWord (setSeq t q) = 0x00000001#32 ∧ (setSeq t q).seq = q' :=
    ⟨hphase.trans hph, statusWord_running (hphase ▸ hbusy) hstatus, hq⟩
  have hadvance := vectorAdvance_cases t
  rw [hseq, hlat] at hadvance
  refine ⟨vectorAdvance t, by rw [step_alone hin, blockStep_runV hph, hunit], ?_⟩
  rcases hadvance with
    ⟨q, ha, ⟨hn, hc, rfl⟩ | ⟨hend, hr, rfl⟩ | ⟨hend, hr, hp, rfl⟩⟩ | ⟨hend, hr, hp, ha⟩
  · have hnext : nextColumn s.lat.w.toNat s.seq.c =
        if s.seq.c + 8 + 7 > s.lat.w.toNat - 2 then s.lat.w.toNat - 9 else s.seq.c + 8 := by
      unfold nextColumn
      split_ifs <;> omega
    rw [ha, if_pos (by omega)]
    exact moved (by rw [hnext])
  · rw [ha, if_neg (by omega), if_pos (by omega)]
    exact moved rfl
  · rw [ha, if_neg (by omega), if_neg (by omega), if_pos hp]
    exact moved rfl
  · rw [ha, if_neg (by omega), if_neg (by omega), if_neg hp]
    exact ⟨rfl, by simp [statusWord, busy, statusDone]⟩

/-! ### The chunk list of a row (43 R183) -/

/-- The `k`-th chunk of a row: 8 columns after the one before, pulled back where it would pass the last interior
column. -/
def chunkAt (w k : Nat) : Nat × Nat := (min (1 + 8 * k) (max 1 (w - 9)), min 8 (w - 2))

/-- CH(W) is its ceil((W - 2) / 8) chunks in order (43 R183). -/
theorem chunkList_eq_map {w : Nat} (hw : 3 ≤ w) : chunkList w = (List.range ((w - 2 + 7) / 8)).map (chunkAt w) := by
  have full {k : Nat} (hk : 8 * k + 10 ≤ w) : (1 + 8 * k, 8) = chunkAt w k :=
    Prod.ext (by simp only [chunkAt]; omega) (by simp only [chunkAt]; omega)
  unfold chunkList
  simp only
  split_ifs with hnarrow hwhole
  · have hone : (w - 2 + 7) / 8 = 1 := by omega
    rw [hone]
    simp [chunkAt]
    omega
  · have hcount : (w - 2 + 7) / 8 = (w - 2) / 8 := by omega
    rw [List.append_nil, hcount]
    exact List.map_congr_left fun k hk => full (by have := List.mem_range.mp hk; omega)
  · have hcount : (w - 2 + 7) / 8 = (w - 2) / 8 + 1 := by omega
    have htail : (w - 9, 8) = chunkAt w ((w - 2) / 8) :=
      Prod.ext (by simp only [chunkAt]; omega) (by simp only [chunkAt]; omega)
    rw [hcount, List.range_succ, List.map_append, List.map_singleton, htail]
    congr 1
    exact List.map_congr_left fun k hk => full (by have := List.mem_range.mp hk; omega)

/-- The entries of CH(W) (43 R183). -/
theorem chunkList_getElem?_eq_some {w k c n : Nat} (hw : 3 ≤ w) : (chunkList w)[k]? = some (c, n) ↔
    k < (w - 2 + 7) / 8 ∧ c = min (1 + 8 * k) (max 1 (w - 9)) ∧ n = min 8 (w - 2) := by
  rw [chunkList_eq_map hw, List.getElem?_eq_some_iff]
  simp only [List.getElem_map, List.getElem_range, chunkAt, List.length_map, List.length_range, Prod.mk.injEq,
    exists_prop, eq_comm]

/-- Settles O33: every clause is arithmetic on the `k`-th chunk. -/
theorem chunkListIsVisited : Obligations.ChunkListIsVisited := by
  intro w hw
  have hlength : (chunkList w).length = (w - 2 + 7) / 8 := by simp [chunkList_eq_map hw]
  refine ⟨?_, hlength, fun k c n c' n' hk hk' => ?_, fun c n hlast => ?_, fun col hcol hcol' => ?_⟩
  · rw [List.head?_eq_getElem?, chunkList_getElem?_eq_some hw]
    omega
  · rw [chunkList_getElem?_eq_some hw] at hk hk'
    unfold nextColumn
    split_ifs <;> omega
  · rw [List.getLast?_eq_getElem?, chunkList_getElem?_eq_some hw, hlength] at hlast
    omega
  · have hk : (chunkList w)[(col - 1) / 8]? = some (chunkAt w ((col - 1) / 8)) :=
      (chunkList_getElem?_eq_some hw).mpr ⟨by omega, rfl, rfl⟩
    exact ⟨_, _, List.mem_of_getElem? hk, by omega, by omega⟩

end Sys2Proof.Machine

/-! PROOF. Errors and exceptions (60 R210 to R231): every command answers, the checks of a DETECT command in their
order, and the first failing access of a unit ends the run. -/

namespace Sys2Proof.Machine

/-! ### Every command answers; an idle block waits (60 R210, R230, R231) -/

/-- Settles O8: a command's meaning is `issue` of its effect, a state. -/
theorem everyCommandAnswers : Obligations.EveryCommandAnswers := fun i s => ⟨_, exec_eq_issue i s⟩

/-- Settles O51: with nothing waiting the step is the block's turn, and idle that turn is no change. -/
theorem idleBlockWaits : Obligations.IdleBlockWaits := fun s hi hin => by
  rw [step_alone hin, blockStep_idle hi]

/-! ### The error entry (60 R219) -/

/-- STATUS reads 0x00000006 | (code << 8) after an error (60 R219). -/
theorem statusWord_error {s : State} {e : ErrCode} (hi : s.phase = .idle) (hst : s.status = statusError e) :
    statusWord s = 0x00000006#32 ||| (e.number.zeroExtend 32 <<< 8) := by
  rw [statusWord, not_busy_iff.mpr hi, hst]
  cases e <;> decide

/-- Settles O26: the entry is the state written out, and STATUS reads its code. -/
theorem errorEntry : Obligations.ErrorEntry := fun _ _ _ => ⟨rfl, statusWord_error rfl rfl⟩

/-! ### The acceptance checks (60 R213 to R218) -/

section
variable {s : State}

/-- A depth other than 24 fails the first check, whatever the other operands (60 R213). -/
theorem checkDetectOperands_badDepth (hd : s.bpp ≠ 24#32) : checkDetectOperands s = some .badDepth :=
  if_pos fun h => hd (BitVec.eq_of_toNat_eq h)

/-- With depth 24 the checks go on with the dimensions, the range and the overlap, in that order (60 R218). -/
theorem checkDetectOperands_depth (hd : s.bpp = 24#32) : checkDetectOperands s =
    if s.width.toNat < 3 ∨ s.height.toNat < 3 then some .badDims
    else if s.inBase.toNat + 3 * s.width.toNat * s.height.toNat > 2 ^ 32 ∨
      s.outBase.toNat + 3 * s.width.toNat * s.height.toNat > 2 ^ 32 then some .range
    else if s.inBase.toNat < s.outBase.toNat + 3 * s.width.toNat * s.height.toNat ∧
      s.outBase.toNat < s.inBase.toNat + 3 * s.width.toNat * s.height.toNat then some .overlap
    else none :=
  if_neg fun h => h (congrArg BitVec.toNat hd)

/-- No check answers BUS_ERROR: acceptance makes no memory access (60 R217, R218). -/
theorem checkDetectOperands_ne_busError : checkDetectOperands s ≠ some .busError := by
  by_cases hd : s.bpp = 24#32
  · rw [checkDetectOperands_depth hd]
    split_ifs <;> decide
  · rw [checkDetectOperands_badDepth hd]
    decide

/-- A failed check refuses the command, whichever detector it names: STATUS and FAULT_ADDR change and nothing else
(60 R219). -/
theorem exec_detect_refused {i : Instr} (hdetect : i = .detectS ∨ i = .detectV) (hi : s.phase = .idle) {e : ErrCode}
    (hcheck : checkDetectOperands s = some e) :
    exec i s = .next { s with status := statusError e, faultAddr := 0#32 } := by
  have refused (ph : Phase) (n : Nat) :
      startDetect ph n (acceptClear s) = { s with status := statusError e, faultAddr := 0#32 } := by
    rw [startDetect, checkDetectOperands_acceptClear, hcheck]
    exact raiseError_acceptClear hi (fun h => checkDetectOperands_ne_busError (h ▸ hcheck)) _
  rw [exec_eq_issue, issue_idle hi]
  rcases hdetect with rfl | rfl
  · exact congrArg _ (refused .runS 1)
  · exact congrArg _ (refused .runV (firstLanes s.width))

end

/-- Settles O25: in each case the checks before the failing one pass. -/
theorem acceptanceChecksInOrder : Obligations.AcceptanceChecksInOrder := by
  refine fun s i hdetect hi => ⟨fun hd => ?_, fun hd hdims => ?_, fun hd hw hh hrange => ?_,
    fun hd hw hh hin hout hlow hhigh => ?_⟩
  · exact exec_detect_refused hdetect hi (checkDetectOperands_badDepth hd)
  · exact exec_detect_refused hdetect hi ((checkDetectOperands_depth hd).trans (if_pos hdims))
  · refine exec_detect_refused (e := .range) hdetect hi ?_
    rw [checkDetectOperands_depth hd, if_neg (by omega), if_pos hrange]
  · refine exec_detect_refused (e := .overlap) hdetect hi ?_
    rw [checkDetectOperands_depth hd, if_neg (by omega), if_neg (by omega), if_pos ⟨hlow, hhigh⟩]

/-! ### A failing access ends the run (60 R217, R219) -/

/-- An address of the space is kept by the 32 bits of FAULT_ADDR. -/
theorem busFailure_faultAddr_toNat (u : State) {a : Int} (hlo : 0 ≤ a) (hhi : a < 2 ^ 32) :
    ((busFailure u a).faultAddr.toNat : Int) = a := by
  rw [busFailure_faultAddr, BitVec.toNat_ofInt]
  omega

/-- A turn ended by a failing access leaves the block idle with STATUS = 0x00000606, the address in FAULT_ADDR and the
operand and LANE registers as they were. -/
theorem step_busFailure {s u : State} {a : Int} (hin : s.inputs = []) (hu : blockStep s = busFailure u a)
    (hlo : 0 ≤ a) (hhi : a < 2 ^ 32) :
    step s = .next (busFailure u a) ∧ statusWord (busFailure u a) = 0x00000606#32 ∧
      ((busFailure u a).faultAddr.toNat : Int) = a ∧ SameRegisters s (busFailure u a) := by
  obtain ⟨_, hstep, rfl, hregs, -⟩ := blockTurnFrame.1 s hin
  rw [hu] at hstep hregs
  exact ⟨hstep, statusWord_error (e := .busError) rfl rfl, busFailure_faultAddr_toNat u hlo hhi, hregs⟩

/-! ### A failing read (41 R136, 43 R177, 60 R220) -/

/-- The first failing read of a scalar unit ends it; it has written nothing (41 R136). -/
theorem scalarUnit_readFails {s : State} {a : Int} (h : firstFailing s (scalarReads s) = some a) :
    scalarUnit s = busFailure (nextDraw s) a := by
  have hload : scalarLoad (nextDraw s) = (nextDraw s, some a) := by
    have hf : firstFailing (nextDraw s) (scalarReads (nextDraw s)) = some a := h
    rw [scalarLoad, hf]
  rw [scalarUnit, hload]

/-- The first failing read of a vector unit ends it; it has written operand registers alone (43 R177). -/
theorem vectorUnit_readFails {s : State} {a : Int} (h : firstFailing s (vectorReads s) = some a) :
    ∃ v, vectorUnit s = busFailure (setVop (nextDraw s) v) a := by
  have hload : loadOperands (nextDraw s) allNbrs =
      (setVop (nextDraw s) (loadOperands (nextDraw s) allNbrs).1.vop, some a) :=
    Prod.ext (loadOperands_frame allNbrs _) ((loadOperands_snd allNbrs _).trans h)
  exact ⟨_, by rw [vectorUnit, vectorLoad, hload]⟩

/-- Every sample an active lane reads has an address of the space (43 R192). -/
theorem Invariant.nbrAddr_inSpace {s : State} (h : Invariant s) (hb : s.phase ≠ .idle) (x : Nbr) {j : Nat}
    (hj : j < s.seq.n) : 0 ≤ nbrAddr s x + j ∧ nbrAddr s x + j < 2 ^ 32 := by
  have hl := h.operands hb
  have hrange := hl.inRange
  obtain ⟨hlo, hhi⟩ := neighbour_inWindow ((h.unitOf hb).interior hl.width hj) x
  rw [nbrAddr_add]
  omega

/-- Settles O34: the failing read is a sample of an active lane, so its address fits FAULT_ADDR. -/
theorem readFailureEndsRun : Obligations.ReadFailureEndsRun := by
  intro s a h hin _ hfails
  obtain ⟨u, hu, hmem, hlo, hhi⟩ :
      ∃ u, blockStep s = busFailure u a ∧ u.mem = s.mem ∧ 0 ≤ a ∧ a < 2 ^ 32 := by
    rcases hfails with ⟨hph, hf⟩ | ⟨hph, hf⟩
    · obtain ⟨x, -, hx⟩ := List.mem_map.mp (List.mem_of_find?_eq_some hf)
      have hspace := h.nbrAddr_inSpace (by rw [hph]; decide) x (j := 0) (by rw [(h.scalarSeq hph).2]; decide)
      rw [Nat.cast_zero, add_zero, hx] at hspace
      exact ⟨_, (blockStep_runS hph).trans (scalarUnit_readFails hf), rfl, hspace⟩
    · obtain ⟨x, -, hx⟩ := List.mem_flatMap.mp (List.mem_of_find?_eq_some hf)
      obtain ⟨j, hj, rfl⟩ := List.mem_map.mp hx
      obtain ⟨v, hv⟩ := vectorUnit_readFails hf
      exact ⟨_, (blockStep_runV hph).trans hv, rfl,
        h.nbrAddr_inSpace (by rw [hph]; decide) x ((mem_activeLanes _ j).mp hj)⟩
  obtain ⟨hstep, hstatus, haddr, hregs⟩ := step_busFailure hin hu hlo hhi
  exact ⟨_, hstep, rfl, hstatus, haddr, hmem, hregs⟩

/-! ### A failing write (41 R136, 43 R181, 60 R220) -/

/-- An undisturbed scalar unit whose reads succeed comes to its write (41 R136). -/
theorem scalarUnit_pixelWrites {s : State} (hn : s.seq.n = 1) (hq : RaceFree s)
    (hreads : ∀ x, memOK s (nbrAddr s x) = true) :
    scalarUnit s = storeThen (accumulate (nextDraw s) (scalarSamples (nextDraw s))) (pixelWrites s) scalarAdvance := by
  have hload := scalarLoad_done (s := nextDraw s) hreads
  have hsamples : scalarSamples (nextDraw s) = neighbourhood s.lat s.mem s.seq.p s.seq.r s.seq.c :=
    scalarSamples_eq (s := nextDraw s) hq
  simp [scalarUnit, hload, scalarStores_accumulate, pixelWrites, hn, hsamples]

/-- An undisturbed vector unit whose reads succeed comes to its writes (43 R187). -/
theorem vectorUnit_pixelWrites {s : State} (hn : s.seq.n ≤ 8) (hq : RaceFree s)
    (hreads : ∀ x (j : Fin 8), j.val < s.seq.n → memOK s (nbrAddr s x + j.val) = true) :
    vectorUnit s = storeThen (chunkDone (nextDraw s)) (pixelWrites s) vectorAdvance := by
  have hload := vectorLoad_done (s := nextDraw s) hreads
  have hstores : vectorStores (chunkDone (nextDraw s)) = pixelWrites s :=
    vectorStores_chunkDone (s := nextDraw s) hq hn
  simp [vectorUnit, hload, hstores]

/-- An undisturbed unit of either detector whose reads succeed comes to its writes, with memory as it was. -/
theorem blockStep_pixelWrites {s : State} (hu : UnitOf s.phase s.lat s.seq) (hw : 3 ≤ s.lat.w.toNat)
    (hq : RaceFree s) (hreads : ∀ x j, j < s.seq.n → memOK s (nbrAddr s x + j) = true) :
    ∃ s', blockStep s = storeThen s' (pixelWrites s) (unitAdvance s.phase) ∧ s'.memMap = s.memMap ∧
      s'.mem = s.mem := by
  cases hph : s.phase with
  | idle => rw [hph] at hu; exact hu.lanes.elim
  | runS =>
    rw [hph] at hu
    obtain ⟨-, hn⟩ := hu.pixel
    have hreads' (x : Nbr) : memOK s (nbrAddr s x) = true := by
      have := hreads x 0 (by omega)
      rwa [Nat.cast_zero, add_zero] at this
    exact ⟨_, (blockStep_runS hph).trans (scalarUnit_pixelWrites hn hq hreads'), rfl, rfl⟩
  | runV =>
    rw [hph] at hu
    obtain ⟨-, -, hn, -⟩ := inRow_bounds hw hu.lanes
    exact ⟨_, (blockStep_runV hph).trans (vectorUnit_pixelWrites hn hq fun x j => hreads x j), rfl, rfl⟩

/-- `s` with the unit cut to its first `k` lanes, those at the lower columns. -/
def firstColumns (s : State) (k : Nat) : State := setSeq s { s.seq with n := k }

/-- A unit's writes are those at the columns below `k`, the one at column `k`, and the rest. -/
theorem pixelWrites_split {s : State} {k : Nat} (hk : k < s.seq.n) : ∃ b after, pixelWrites s =
    pixelWrites (firstColumns s k) ++
      (outAddr s.lat s.seq.p s.seq.r ((s.seq.c + k : Nat) : Int), b) :: after := by
  obtain ⟨m, hm⟩ := Nat.exists_eq_add_of_le hk
  have hrange : List.range s.seq.n = List.range k ++ k :: (List.range m).map (k + 1 + ·) := by
    rw [hm, List.range_add, List.range_succ, List.append_assoc, List.singleton_append]
  rw [pixelWrites, hrange, List.map_append, List.map_cons]
  exact ⟨_, _, rfl⟩

/-- No unit writes a byte twice (20 R63). -/
theorem pixelWrites_nodup {s : State} (hi : ∀ j, j < s.seq.n → Interior s.lat s.seq.p s.seq.r (s.seq.c + j)) :
    ((pixelWrites s).map Prod.fst).Nodup := by
  rw [pixelWrites, List.map_map]
  refine List.Nodup.map_on (fun j hj j' hj' heq => ?_) List.nodup_range
  obtain ⟨-, -, hcol⟩ := outByte_injective (hi j (List.mem_range.mp hj)) (hi j' (List.mem_range.mp hj'))
    (congrArg Int.toNat heq)
  exact Nat.add_left_cancel hcol

/-- A unit's writes, all done, change memory as the unit says (41 R136, 43 R181). -/
theorem storeBytes_pixelWrites {s s' : State} (hc : Memory.wf s.mem = true) (hm : s'.mem = s.mem)
    (hi : ∀ j, j < s.seq.n → Interior s.lat s.seq.p s.seq.r (s.seq.c + j))
    (hok : ∀ p ∈ pixelWrites s, memOK s' p.1 = true) :
    UnitWrites s.lat s.seq s.mem (storeBytes s' (pixelWrites s)).1.mem := by
  have hc' : Memory.wf s'.mem = true := hm ▸ hc
  refine ⟨storeBytes_wf _ hc', fun j hj => ?_, fun a ha => ?_⟩
  · exact storeBytes_read_written _ hc' hok (pixelWrites_nodup hi) _ (List.mem_map_of_mem (List.mem_range.mpr hj))
  · rw [storeBytes_read_other _ hc', hm]
    intro p hp
    obtain ⟨j, hj, rfl⟩ := List.mem_map.mp hp
    exact (ha j (List.mem_range.mp hj)).symm

/-- Settles O35: the writes done are those of the unit cut to the lower columns. -/
theorem writeFailureEndsRun : Obligations.WriteFailureEndsRun := by
  intro s k h hb hin hq hk hreads hdone hfails
  have hl := h.operands hb
  have hu := h.unitOf hb
  obtain ⟨s', hturn, hmap, hm⟩ := blockStep_pixelWrites hu hl.width hq hreads
  have hok : ∀ p ∈ pixelWrites (firstColumns s k), memOK s' p.1 = true := by
    intro p hp
    obtain ⟨j, hj, rfl⟩ := List.mem_map.mp hp
    exact (memOK_congr hmap _).trans (hdone j (List.mem_range.mp hj))
  obtain ⟨b, after, hsplit⟩ := pixelWrites_split hk
  rw [hsplit, storeThen_fails hok ((memOK_congr hmap _).trans hfails)] at hturn
  obtain ⟨-, hwritten, hothers⟩ := storeBytes_pixelWrites (s := firstColumns s k) h.memCanonical hm
    (fun j hj => hu.interior hl.width (Nat.lt_trans hj hk)) hok
  obtain ⟨hlo, hhi⟩ := outAddr_inWindow (hu.interior hl.width hk)
  have hrange := hl.outRange
  obtain ⟨hstep, hstatus, haddr, hregs⟩ := step_busFailure hin hturn (by omega) (by omega)
  exact ⟨_, hstep, rfl, hstatus, congrArg Int.toNat haddr, hwritten, hothers, hregs⟩

end Sys2Proof.Machine

/-! PROOF. Reset and hazards (70 R240 to R249): what reset leaves, a reset that cuts a unit, and the host's writes to
CMD and to the operand registers while a command runs. -/

namespace Sys2Proof.Machine

/-! ### What reset leaves (70 R241 to R243) -/

/-- Settles O36: the reset state is canonical, idle and clear, and no window of it is open. -/
theorem resetMeetsInvariant : Obligations.ResetMeetsInvariant where
  memCanonical := rfl
  memInSpace := rfl
  statusBusy := fun hb => absurd rfl hb
  statusIdle := fun _ => .inl rfl
  faultAddr := fun hf => absurd rfl hf
  operands := fun hb => absurd rfl hb
  scalarSeq := nofun
  vectorSeq := nofun
  runUnread := fun hb => absurd rfl hb
  unreadLegal := nofun
  racedIn := nofun
  racedOut := nofun

/-- A waiting reset is the next step (70 R240). -/
theorem step_reset {s : State} {k : Nat} {rest : List Input} (hin : s.inputs = .reset k :: rest) :
    step s = .next (serveReset { s with inputs := rest } k) :=
  step_serves hin

/-- STATUS reads 0 in the reset state (70 R241). -/
theorem statusWord_reset : statusWord State.reset = 0x00000000#32 := by decide

/-- Every register of the map reads 0 after reset (70 R241). -/
theorem readReg_resetBlock (s : State) (r : Reg) : readReg (resetBlock s) r = 0x00000000#32 := by
  cases r with
  | status => exact statusWord_reset
  | _ => rfl

/-- Reset keeps the memory that the writes done of the unit in progress leave (70 R243, R244). -/
theorem serveReset_mem (s : State) (k : Nat) :
    (serveReset s k).mem = (storeBytes (nextDraw s) ((unitStores s).take k)).1.mem := rfl

/-- Reset leaves the operations waiting behind it (log entry 23). -/
theorem serveReset_inputs (s : State) (k : Nat) : (serveReset s k).inputs = s.inputs := by
  rw [serveReset, storeBytes_frame]
  rfl

/-- An idle block has no unit in progress: reset keeps its memory (70 R243). -/
theorem serveReset_mem_idle {s : State} (hi : s.phase = .idle) (k : Nat) : (serveReset s k).mem = s.mem := by
  have hnone : unitStores s = [] := by rw [unitStores, hi]
  rw [serveReset_mem, hnone, List.take_nil]
  rfl

/-- Settles O53: reset sets every register, and an idle block has no write to do before it. -/
theorem resetClearsRegisters : Obligations.ResetClearsRegisters := by
  intro s k rest hin
  exact ⟨_, step_reset hin, rfl, readReg_resetBlock _, serveReset_inputs _ k,
    serveReset_mem_idle (s := { s with inputs := rest }) (k := k)⟩

/-! ### Reset cuts a unit (70 R244) -/

/-- However many of a list of writes are done, each byte is what it was, or what one of them wrote there. -/
theorem storeBytes_read_cases (l : List (Int × Byte)) : ∀ {s : State}, Memory.wf s.mem = true → ∀ a : Nat,
    Memory.read (storeBytes s l).1.mem a = Memory.read s.mem a ∨
      ∃ p ∈ l, a = p.1.toNat ∧ Memory.read (storeBytes s l).1.mem a = p.2 := by
  induction l with
  | nil => exact fun _ _ => .inl rfl
  | cons q rest ih =>
    intro s hc a
    obtain ⟨x, b⟩ := q
    unfold storeBytes
    split
    · have hfirst : Memory.read (storeByte s x.toNat b).mem a = if a = x.toNat then b else Memory.read s.mem a :=
        read_write hc _ _ _
      rcases ih (s := storeByte s x.toNat b) (write_wf hc _ _) a with hkept | ⟨p, hp, hwritten⟩
      · rw [hkept, hfirst]
        by_cases ha : a = x.toNat
        · exact .inr ⟨(x, b), List.mem_cons_self, ha, if_pos ha⟩
        · exact .inl (if_neg ha)
      · exact .inr ⟨p, List.mem_cons_of_mem _ hp, hwritten⟩
    · exact .inl rfl

/-- An undisturbed unit would write nothing, where a read fails, or the pixel function at its active lanes. -/
theorem unitStores_cases {s : State} (h : Invariant s) (hb : s.phase ≠ .idle) (hq : RaceFree s) :
    unitStores s = [] ∨ unitStores s = pixelWrites s := by
  cases hph : s.phase with
  | idle => exact absurd hph hb
  | runS =>
    obtain ⟨-, hn⟩ := h.scalarSeq hph
    have hsamples : scalarSamples (nextDraw s) = neighbourhood s.lat s.mem s.seq.p s.seq.r s.seq.c :=
      scalarSamples_eq (s := nextDraw s) hq
    rcases scalarLoad_cases (nextDraw s) with ⟨a, -, hload⟩ | ⟨-, hload⟩
    · left; simp only [unitStores, hph, scalarUnitStores, hload]
    · right; simp [unitStores, hph, scalarUnitStores, hload, scalarStores_accumulate, hsamples, pixelWrites, hn]
  | runV =>
    obtain ⟨-, -, hn, -⟩ := inRow_bounds (h.operands hb).width (h.unitOf hb).lanes
    rcases vectorLoad_cases (nextDraw s) with ⟨a, v, -, hload⟩ | ⟨-, hload⟩
    · left; simp only [unitStores, hph, vectorUnitStores, hload]
    · right
      simp only [unitStores, hph, vectorUnitStores, hload]
      exact vectorStores_chunkDone (s := nextDraw s) hq hn

/-- The first `k` writes of a unit are those at its lanes below `k`. -/
theorem mem_take_pixelWrites {s : State} {k : Nat} {p : Int × Byte} (hp : p ∈ (pixelWrites s).take k) :
    ∃ j, j < s.seq.n ∧ j < k ∧ p = (outAddr s.lat s.seq.p s.seq.r ((s.seq.c + j : Nat) : Int),
      spx (neighbourhood s.lat s.mem s.seq.p s.seq.r (s.seq.c + j))) := by
  rw [pixelWrites, ← List.map_take, List.take_range] at hp
  obtain ⟨j, hj, rfl⟩ := List.mem_map.mp hp
  obtain ⟨hk, hn⟩ := lt_min_iff.mp (List.mem_range.mp hj)
  exact ⟨j, hn, hk, rfl⟩

/-- Settles O54: each byte is what it was or what one of the writes done put there, and these are among the unit's
first `k`. -/
theorem resetCutsRun : Obligations.ResetCutsRun := by
  intro s k rest h hb hq hin
  refine ⟨_, step_reset hin, rfl, readReg_resetBlock _ .status, ?_, fun a => ?_⟩
  · rintro rfl
    rfl
  · have hu : Invariant { s with inputs := rest } := h.of_view rfl
    rw [serveReset_mem]
    rcases storeBytes_read_cases _ (s := nextDraw { s with inputs := rest }) h.memCanonical a with
      hkept | ⟨p, hp, ha, hwritten⟩
    · exact .inl hkept
    · rcases unitStores_cases hu hb hq with hnone | hpixels
      · rw [hnone, List.take_nil] at hp
        exact absurd hp List.not_mem_nil
      · rw [hpixels] at hp
        obtain ⟨j, hj, hk, rfl⟩ := mem_take_pixelWrites hp
        exact .inr ⟨j, hj, hk, ha, hpixels ▸ hwritten⟩

/-! ### The host's writes during a run (70 R247, R249) -/

/-- Every command issued while a command runs is dropped (70 R247). -/
theorem exec_busy {s : State} (hb : s.phase ≠ .idle) (i : Instr) : exec i s = .next s := by
  rw [exec_eq_issue, issue_busy hb]

/-- Every word written to CMD while a command runs is dropped (70 R247). -/
theorem commandWrite_busy {s : State} (hb : s.phase ≠ .idle) (w : Word) : commandWrite s w = .next s := by
  unfold commandWrite
  split
  · exact exec_busy hb _
  · rw [issue_busy hb]

/-- Settles O7: a legal word or not, it is issued to a busy block. -/
theorem busyCommandDropped : Obligations.BusyCommandDropped := by
  refine fun s hb => ⟨exec_busy hb, fun w rest hin => ?_⟩
  rw [step_serves hin]
  exact (serveRegWrite_cmd _ w).trans (commandWrite_busy (s := { s with inputs := rest }) hb w)

/-- A register written by the host is part of the host's side alone. -/
theorem writeReg_withHostSide (s o : State) (r : Reg) (v : Word) :
    writeReg (withHostSide s o) r v = withHostSide s (writeReg o r v) := by
  cases r <;> rfl

/-- A write to a register does not look at the waiting operations. -/
theorem writeReg_inputs (s : State) (r : Reg) (v : Word) (l : List Input) :
    writeReg { s with inputs := l } r v = { writeReg s r v with inputs := l } := by
  cases r <;> rfl

/-- A turn commutes with a write to a register: it does not look at the host's side and keeps it (10 R35, 70 R249). -/
theorem blockStep_writeReg (s : State) (r : Reg) (v : Word) :
    blockStep (writeReg s r v) = writeReg (blockStep s) r v :=
  calc blockStep (writeReg s r v)
    _ = blockStep (withHostSide s (writeReg s r v)) := congrArg blockStep (writeReg_withHostSide s s r v)
    _ = withHostSide (blockStep s) (writeReg s r v) := blockStep_withHostSide s _
    _ = writeReg (withHostSide (blockStep s) s) r v := (writeReg_withHostSide _ s r v).symm
    _ = writeReg (blockStep s) r v := congrArg (writeReg · r v) (blockStep_withHostSide s s).symm

/-- Settles O49: a turn commutes with the write and with the operations waiting behind it. -/
theorem operandWriteDuringRun : Obligations.OperandWriteDuringRun := by
  intro s r v rest _ hc _ _
  have hwrite (u : State) (l : List Input) :
      step { u with inputs := .regWrite .b32 (regOffset r) v :: l } = .next (writeReg { u with inputs := l } r v) :=
    serveRegWrite_reg hc _ v
  have hturn (u : State) (l : List Input) :
      step { u with inputs := .blockTurn :: l } = .next (blockStep { u with inputs := l }) := rfl
  refine ⟨writeReg (blockStep { s with inputs := rest }) r v, ?_, ?_⟩
  · rw [run_succ (hwrite s _), writeReg_inputs, run_succ (hturn _ rest), ← writeReg_inputs, ← blockStep_writeReg]
    rfl
  · rw [run_succ (hturn s _), blockStep_inputs s, run_succ (hwrite _ rest), ← blockStep_inputs s]
    rfl

end Sys2Proof.Machine

/-! PROOF. The host at the bus (20 R62, R76, 30 R100, 70 R248): which of its accesses stop a step, the accesses that
race, and the STATUS reads that hand the windows over. -/

namespace Sys2Proof.Machine

/-! ### What stops a step (20 R62; log entries 10 and 11) -/

/-- An access to the register window that is not allowed is not an aligned 32-bit one (20 R62). -/
theorem not_aligned_of_accessAllowed {width : AccessWidth} {off : BitVec 8} (h : accessAllowed width off = false) :
    width ≠ .b32 ∨ off.toNat % 4 ≠ 0 := by
  by_contra hboth
  push Not at hboth
  obtain ⟨rfl, h4⟩ := hboth
  exact Bool.false_ne_true (h.symm.trans (accessAllowed_aligned h4))

/-- An allowed write to the register window answers with a next state. -/
theorem serveRegWrite_allowed {width : AccessWidth} {off : BitVec 8} (h : accessAllowed width off = true) (s : State)
    (v : Word) : ∃ t, serveRegWrite s width off v = .next t := by
  unfold serveRegWrite
  rw [if_pos h]
  split
  · exact ⟨_, rfl⟩
  · exact commandWrite_next s v
  · exact ⟨_, rfl⟩

/-- An allowed read of the register window answers with a next state. -/
theorem serveRegRead_allowed {width : AccessWidth} {off : BitVec 8} (h : accessAllowed width off = true) (s : State) :
    ∃ t, serveRegRead s width off = .next t := by
  unfold serveRegRead
  rw [if_pos h]
  split <;> exact ⟨_, rfl⟩

/-- A host write where memory responds answers with a next state. -/
theorem serveMemWrite_responds {s : State} {addr : Word} (h : memOK s (addr.toNat : Int) = true) (b : Byte) :
    ∃ t, serveMemWrite s addr b = .next t := by
  dsimp only [serveMemWrite]
  rw [if_neg (by simp [h])]
  split <;> exact ⟨_, rfl⟩

/-- A host read where memory responds answers with a next state. -/
theorem serveMemRead_responds {s : State} {addr : Word} (h : memOK s (addr.toNat : Int) = true) :
    ∃ t, serveMemRead s addr = .next t := by
  dsimp only [serveMemRead]
  rw [if_neg (by simp [h])]
  split <;> exact ⟨_, rfl⟩

/-- All that serving an input can answer: a next state, the fault of a host access where no memory responds, or the
refusal of a register access that is not an aligned 32-bit one. -/
theorem serve_cases (s : State) (i : Input) :
    (∃ t, serve s i = .next t) ∨
    (∃ addr, (i = .memRead addr ∨ ∃ b, i = .memWrite addr b) ∧ memOK s (addr.toNat : Int) = false ∧
      serve s i = .fault (.hostNoMemory addr)) ∨
    ∃ width off, (i = .regRead width off ∨ ∃ v, i = .regWrite width off v) ∧ (width ≠ .b32 ∨ off.toNat % 4 ≠ 0) ∧
      serve s i = .refused (.badRegisterAccess width off) := by
  cases i with
  | regWrite width off v =>
    cases hallowed : accessAllowed width off with
    | true => exact .inl (serveRegWrite_allowed hallowed s v)
    | false =>
      exact .inr (.inr ⟨width, off, .inr ⟨v, rfl⟩, not_aligned_of_accessAllowed hallowed,
        by simp [serve, serveRegWrite, hallowed]⟩)
  | regRead width off =>
    cases hallowed : accessAllowed width off with
    | true => exact .inl (serveRegRead_allowed hallowed s)
    | false =>
      exact .inr (.inr ⟨width, off, .inl rfl, not_aligned_of_accessAllowed hallowed,
        by simp [serve, serveRegRead, hallowed]⟩)
  | memWrite addr b =>
    cases hok : memOK s (addr.toNat : Int) with
    | true => exact .inl (serveMemWrite_responds hok b)
    | false => exact .inr (.inl ⟨addr, .inr ⟨b, rfl⟩, hok, by simp [serve, serveMemWrite, hok]⟩)
  | memRead addr =>
    cases hok : memOK s (addr.toNat : Int) with
    | true => exact .inl (serveMemRead_responds (s := s) (addr := addr) hok)
    | false => exact .inr (.inl ⟨addr, .inl rfl, hok, by simp [serve, serveMemRead, hok]⟩)
  | wait => exact .inl ⟨_, rfl⟩
  | blockTurn => exact .inl ⟨_, rfl⟩
  | reset k => exact .inl ⟨_, rfl⟩

/-- All that a step can answer: a next state, or what serving a host access that stops answers; the block's own turn
never stops. -/
theorem step_cases (s : State) :
    (∃ t, step s = .next t) ∨
    (∃ addr rest, (s.inputs = .memRead addr :: rest ∨ ∃ b, s.inputs = .memWrite addr b :: rest) ∧
      memOK s (addr.toNat : Int) = false ∧ step s = .fault (.hostNoMemory addr)) ∨
    ∃ width off rest, (s.inputs = .regRead width off :: rest ∨ ∃ v, s.inputs = .regWrite width off v :: rest) ∧
      (width ≠ .b32 ∨ off.toNat % 4 ≠ 0) ∧ step s = .refused (.badRegisterAccess width off) := by
  cases hin : s.inputs with
  | nil => exact .inl ⟨_, step_alone hin⟩
  | cons i rest =>
    rw [step_serves hin]
    rcases serve_cases { s with inputs := rest } i with hnext | ⟨addr, hi, hok, hstop⟩ | ⟨width, off, hi, hbad, hstop⟩
    · exact .inl hnext
    · refine .inr (.inl ⟨addr, rest, ?_, hok, hstop⟩)
      exact hi.imp (congrArg (· :: rest)) fun ⟨b, hb⟩ => ⟨b, congrArg (· :: rest) hb⟩
    · refine .inr (.inr ⟨width, off, rest, ?_, hbad, hstop⟩)
      exact hi.imp (congrArg (· :: rest)) fun ⟨v, hv⟩ => ⟨v, congrArg (· :: rest) hv⟩

/-- Settles O42: of the three answers of a step, one is a fault and one a refusal, and each says which access it is. -/
theorem onlyHostAccessesStop : Obligations.OnlyHostAccessesStop := by
  refine ⟨fun s f hf => ?_, fun s r hr => ?_⟩
  · rcases step_cases s with ⟨t, h⟩ | ⟨addr, rest, hin, hok, h⟩ | ⟨width, off, rest, -, -, h⟩ <;>
      cases h.symm.trans hf
    exact ⟨addr, rfl, hok, rest, hin⟩
  · rcases step_cases s with ⟨t, h⟩ | ⟨addr, rest, -, -, h⟩ | ⟨width, off, rest, hin, hbad, h⟩ <;>
      cases h.symm.trans hr
    exact ⟨width, off, rfl, hbad, rest, hin⟩

/-! ### Accesses that race (20 R76, 70 R248) -/

/-- A byte of the input window of a command not handed over races. -/
theorem racesIn_of_window {s : State} {l : Latch} {a : Nat} (hl : l ∈ s.unread) (h : inInputWindow l a = true) :
    racesIn s a = true :=
  List.any_eq_true.mpr ⟨l, hl, h⟩

/-- A byte of the output window of a command not handed over races. -/
theorem racesOut_of_window {s : State} {l : Latch} {a : Nat} (hl : l ∈ s.unread) (h : inOutputWindow l a = true) :
    racesOut s a = true :=
  List.any_eq_true.mpr ⟨l, hl, h⟩

/-- A host read of a byte of an output window not handed over returns a free byte. -/
theorem step_memRead_racing {s : State} {addr : Word} {rest : List Input} (hinputs : s.inputs = .memRead addr :: rest)
    (hok : memOK s (addr.toNat : Int) = true) (hout : racesOut s addr.toNat = true) :
    step s = .next { nextDraw { s with inputs := rest } with
      busData := (Config.freeByte (s.draws + 1) 0).zeroExtend 32 } := by
  have hok' : memOK { s with inputs := rest } (addr.toNat : Int) = true := (memOK_congr rfl _).trans hok
  have hout' : racesOut { s with inputs := rest } addr.toNat = true := hout
  rw [step_serves hinputs]
  simp [serve, serveMemRead, hok', hout']

/-- A host write of a byte of a window not handed over is a racing write. -/
theorem step_memWrite_racing {s : State} {addr : Word} {b : Byte} {rest : List Input}
    (hinputs : s.inputs = .memWrite addr b :: rest) (hok : memOK s (addr.toNat : Int) = true)
    (hraces : racesIn s addr.toNat = true ∨ racesOut s addr.toNat = true) :
    step s = .next (raceWrite { s with inputs := rest } addr.toNat b) := by
  have hok' : memOK { s with inputs := rest } (addr.toNat : Int) = true := (memOK_congr rfl _).trans hok
  have hraces' : racesIn { s with inputs := rest } addr.toNat = true ∨
    racesOut { s with inputs := rest } addr.toNat = true := hraces
  rw [step_serves hinputs]
  simp [serve, serveMemWrite, hok', hraces']

/-- A racing write in an input window stores. -/
theorem raceWrite_read_in {s : State} (hc : Memory.wf s.mem = true) {a : Nat} (h : racesIn s a = true) (b : Byte) :
    Memory.read (raceWrite s a b).mem a = b := by
  simp [raceWrite, h, read_write hc]

/-- A racing write outside the input windows leaves memory alone. -/
theorem raceWrite_mem_out {s : State} {a : Nat} (h : racesIn s a = false) (b : Byte) :
    (raceWrite s a b).mem = s.mem := by
  simp [raceWrite, h]

/-- The block reads a raced byte as a free byte. -/
theorem blockRead_raced {s : State} {a : Nat} (h : a ∈ s.racedIn ∨ a ∈ s.racedOut) (k : Nat) :
    blockRead s k (a : Int) = Config.freeByte s.draws k :=
  if_pos h

/-- Settles O55: the access is served in a window not handed over, so it races, and a racing write stores or not and
marks the bytes it reaches. -/
theorem racingAccesses : Obligations.RacingAccesses := by
  intro s l addr rest h hl hok
  refine ⟨fun hout hin => ?_, fun _ hout hin => ?_, fun b hout hin => ?_, fun b hwin hin => ?_⟩
  · exact ⟨_, _, step_memRead_racing hin hok (racesOut_of_window hl hout), rfl, rfl⟩
  · exact step_memRead_plain hin hok hout
  · have hraces := racesOut_of_window hl hout
    exact ⟨_, step_memWrite_racing hin hok (.inr hraces), (raceWrite_mem_out (s := { s with inputs := rest }) · b),
      raceWrite_out b hraces⟩
  · have hraces := racesIn_of_window hl hwin
    have hlegal := h.unreadLegal l hl
    refine ⟨_, step_memWrite_racing hin hok (.inl hraces),
      raceWrite_read_in (s := { s with inputs := rest }) h.memCanonical hraces b,
      blockRead_raced (.inl (raceWrite_in b hraces)), fun p r c x hi haddr => ?_⟩
    exact raceWrite_touched hlegal hl b ((mem_touchedOutputs hlegal).mpr ⟨p, r, c, x, hi, haddr, rfl⟩)

/-! ### STATUS reads and the hand-over (70 R248, 30 R100) -/

/-- A host read of STATUS is a poll. -/
theorem step_statusRead {s : State} {rest : List Input} (hin : s.inputs = .regRead .b32 0x04#8 :: rest) :
    step s = .next (pollStatus { s with inputs := rest }) :=
  step_serves hin

/-- Settles O56: a STATUS read is a poll, which hands the windows over when it shows BUSY = 0. -/
theorem racedOutputIsFree : Obligations.RacedOutputIsFree := by
  refine ⟨fun s a k ha => blockRead_raced (.inr ha) k, fun s rest h hin => ⟨fun hb => ?_, fun hi => ?_⟩⟩
  · exact (step_statusRead hin).trans (congrArg _ (pollStatus_busy hb))
  · refine ⟨_, (step_statusRead hin).trans (congrArg _ (pollStatus_idle hi)), rfl, handOver_inputs _,
      handOver_unread _, ⟨handOver_racedIn _, handOver_racedOut _⟩, fun a ha => ?_, fun a ha => ?_⟩
    · exact handOver_read_raced (s := { s with inputs := rest }) h.memCanonical ha
    · exact handOver_read_other (s := { s with inputs := rest }) h.memCanonical ha

/-- The hand-over does not look at the waiting operations. -/
theorem handOver_withInputs (s : State) (l : List Input) :
    handOver { s with inputs := l } = { handOver s with inputs := l } := by
  simp only [handOver]
  cases s.racedOut <;> rfl

/-- A poll of `wait` that shows BUSY = 0 ends it. -/
theorem serveWait_idle {s : State} (h : s.phase = .idle) :
    serveWait s = { handOver s with busData := statusWord s } := by
  rw [serveWait, if_neg (by simp [not_busy_iff.mpr h]), pollStatus_idle h]

/-- A poll of `wait` that shows BUSY = 1 leaves it waiting, and the block takes its turn. -/
theorem serveWait_busy {s : State} (h : s.phase ≠ .idle) :
    serveWait s = blockStep { s with inputs := .wait :: s.inputs, busData := statusWord s } := by
  rw [serveWait, if_pos (busy_iff.mpr h), pollStatus_busy h]

/-- Settles O57: a wait is a poll, and behind a busy one the wait stands again while the block takes its turn. -/
theorem waitPollsUntilIdle : Obligations.WaitPollsUntilIdle := by
  intro s rest hin
  have hstep : step s = .next (serveWait { s with inputs := rest }) := step_serves hin
  refine ⟨fun hi => ?_, fun hb => ⟨?_, ?_⟩⟩
  · rw [hstep, serveWait_idle (s := { s with inputs := rest }) hi, handOver_withInputs]
    rfl
  · rw [hstep, serveWait_busy (s := { s with inputs := rest }) hb, ← hin]
    rfl
  · rw [statusWord_getLsbD_zero, busy_iff.mpr hb]

end Sys2Proof.Machine
